-- ==== Sys2Proof/Word.lean ====
section
/-! DEFINITION. The word types of the block: bytes, half-words and 32-bit words (spec/10_state.md, spec/20_memory.md R71).
Only unsigned values exist (spec/00_scope.md R11). -/

namespace Sys2Proof

/-- A byte: the unit of data memory, a CommandMode frame, a received byte. -/
abbrev Byte := BitVec 8

/-- A half-word: a pixel, a window coordinate, the element counter. -/
abbrev Half := BitVec 16

/-- A 32-bit word: a command word, an address, the result register. -/
abbrev Word := BitVec 32

end Sys2Proof
end

