-- ==== Sys2Proof/Syntax.lean ====
section
/-! DEFINITION. The command set: one constructor per row of spec/opcode_table.json (spec/30_encoding.md R95), its operands as
the rules R93 to R98 lay them out. -/

namespace Sys2Proof

/-- A line id (R94): 0 CS, 1 DC, 2 RST; the value 3 is reserved and is no line. -/
inductive Line where
  | cs
  | dc
  | rst
  deriving DecidableEq, Repr

/-- The profile argument of SPI.CONFIG (R94): 0 CommandMode, 1 StreamingMode. -/
inductive LinkMode where
  | command
  | streaming
  deriving DecidableEq, Repr

/-- A window operand (R97): inclusive bounds, every 16-bit value legal at decode. -/
structure Window where
  xs : Half
  ys : Half
  xe : Half
  ye : Half
  deriving DecidableEq, Repr

/-- The control word of DMA.CONFIG (R96). `esize` and `burst` are the raw codes: ESIZE 3 and BURST 2, 3 are reserved values,
which `Instr.wf` rules out. -/
structure Ctrl where
  chsel : BitVec 3
  esize : BitVec 2
  burst : BitVec 2
  fen : Bool
  fth : BitVec 2
  ie : BitVec 5
  deriving DecidableEq, Repr

/-- The commands of rule R95, in the table's order. -/
inductive Instr where
  | ctlNop
  | ctlHalt
  | ctlWaitReady (stream : BitVec 3)
  | ctlWaitIdle
  | cpuIrqOff
  | cpuIrqOn
  | irqEnable (id : Byte)
  | lineSet (line : Line)
  | lineClear (line : Line)
  | memWr16 (value : Half) (addr : Word)
  | dmaConfig (stream : BitVec 3) (ctrl : Ctrl) (src : Word) (dst : Word) (count : Half)
  | dmaStart (stream : BitVec 3)
  | dmaDisable (stream : BitVec 3)
  | dmaIsReady (stream : BitVec 3)
  | dmaClear (stream : BitVec 3) (mask : BitVec 5)
  | dmaStatus (stream : BitVec 3)
  | spiConfig (mode : LinkMode)
  | spiEnable
  | spiDisable
  | spiXchg (byte : Byte)
  | spiDmaReq
  | seqWindow (win : Window)
  | seqFill (buf : Word)
  | seqFillWin (win : Window) (buf : Word)
  | seqFillCtr (width : Half) (height : Half) (buf : Word)
  | seqHandshake
  | seqState
  deriving DecidableEq, Repr

/-- L(OPC): the number of operand words (R90, R95). -/
def Instr.operandWords : Instr → Nat
  | .memWr16 _ _ => 1
  | .dmaConfig _ _ _ _ _ => 4
  | .seqWindow _ => 2
  | .seqFill _ => 1
  | .seqFillWin _ _ => 3
  | .seqFillCtr _ _ _ => 2
  | .ctlNop | .ctlHalt | .ctlWaitReady _ | .ctlWaitIdle | .cpuIrqOff | .cpuIrqOn | .irqEnable _ | .lineSet _
  | .lineClear _ | .dmaStart _ | .dmaDisable _ | .dmaIsReady _ | .dmaClear _ _ | .dmaStatus _ | .spiConfig _
  | .spiEnable | .spiDisable | .spiXchg _ | .spiDmaReq | .seqHandshake | .seqState => 0

end Sys2Proof
end

