-- ==== Sys2Proof/WellFormed.lean ====
section
/-! DEFINITION. Well-formed commands: the reserved field values of spec/30_encoding.md R96 and R102 that the operand types do
not rule out by themselves (ESIZE 3, BURST 2 and 3). Every other operand type holds exactly the legal values. -/

namespace Sys2Proof

/-- R96, R102: ESIZE 3 is a reserved value. -/
def Ctrl.esizeLegal (c : Ctrl) : Bool := c.esize != 3

/-- R96, R102: BURST 2 and 3 are reserved values. -/
def Ctrl.burstLegal (c : Ctrl) : Bool := c.burst == 0 || c.burst == 1

/-- A control word without a reserved field value. -/
def Ctrl.wf (c : Ctrl) : Bool := c.esizeLegal && c.burstLegal

/-- A command that some packet encodes. -/
def Instr.wf : Instr → Bool
  | .dmaConfig _ ctrl _ _ _ => ctrl.wf
  | .ctlNop | .ctlHalt | .ctlWaitReady _ | .ctlWaitIdle | .cpuIrqOff | .cpuIrqOn | .irqEnable _ | .lineSet _
  | .lineClear _ | .memWr16 _ _ | .dmaStart _ | .dmaDisable _ | .dmaIsReady _ | .dmaClear _ _ | .dmaStatus _
  | .spiConfig _ | .spiEnable | .spiDisable | .spiXchg _ | .spiDmaReq | .seqWindow _ | .seqFill _ | .seqFillWin _ _
  | .seqFillCtr _ _ _ | .seqHandshake | .seqState => true

end Sys2Proof
end

