-- ==== Sys2Proof/Decode.lean ====
section
/-! DEFINITION. The decoder and the encoder of spec/30_encoding.md: header fields (R91), the opcode map (R95), operand words (R93
to R98), and the decode order of R92. The decoder is total on every list of words. -/

namespace Sys2Proof

/-- Why a packet is no command (R92): the names of its three decode faults. -/
inductive DecodeError where
  /-- steps (1) and (3): a header or operand word at or past the end of CMD_STREAM -/
  | pcEnd
  /-- step (2): the opcode is not in the table -/
  | illegal
  /-- steps (4) and (5): a reserved bit or a reserved value -/
  | reserved
  deriving DecidableEq, Repr

/-- What the decoder answers. -/
inductive Decoded where
  | command (i : Instr)
  | reject (e : DecodeError)
  deriving DecidableEq, Repr

/-! ## Fields -/

/-- OPC, header bits 31:24 (R91). -/
def opcOf (h : Word) : Byte := h.extractLsb' 24 8

/-- A stream id, A[2:0] (R93). -/
def streamOf (h : Word) : BitVec 3 := h.extractLsb' 16 3

/-- The whole of A, header bits 23:16 (R91). -/
def argAOf (h : Word) : Byte := h.extractLsb' 16 8

/-- The whole of B, header bits 15:0 (R91). -/
def argBOf (h : Word) : Half := h.extractLsb' 0 16

/-- The low half of an operand word. -/
def loHalf (w : Word) : Half := w.extractLsb' 0 16

/-- The high half of an operand word. -/
def hiHalf (w : Word) : Half := w.extractLsb' 16 16

/-- The line a line id names (R94); 3 is reserved. -/
def lineOf (h : Word) : Option Line :=
  if h.extractLsb' 16 2 = 0#2 then some .cs
  else if h.extractLsb' 16 2 = 1#2 then some .dc
  else if h.extractLsb' 16 2 = 2#2 then some .rst
  else none

/-- The profile A[0] names (R94). -/
def modeOf (h : Word) : LinkMode := if h.extractLsb' 16 1 = 0#1 then .command else .streaming

/-- The fields of the control word W1 of DMA.CONFIG (R96). -/
def ctrlOf (w : Word) : Ctrl where
  chsel := w.extractLsb' 0 3
  esize := w.extractLsb' 4 2
  burst := w.extractLsb' 6 2
  fen := w.extractLsb' 8 1 == 1#1
  fth := w.extractLsb' 9 2
  ie := w.extractLsb' 16 5

/-- The reserved bits of W1 (R96): bit 3, bits 15:11 and bits 31:21. -/
def ctrlReservedMask : Word := 0xFFE0F808

/-- A window from its two operand words (R97). -/
def windowOf (w1 w2 : Word) : Window where
  xs := loHalf w1
  xe := hiHalf w1
  ys := loHalf w2
  ye := hiHalf w2

/-- DMA.CONFIG from its header and operand words; none for a reserved bit or value (R96, step (5) of R92). -/
def dmaConfigOf (h w1 w2 w3 w4 : Word) : Option Instr :=
  if w1 &&& ctrlReservedMask = 0 ∧ (ctrlOf w1).wf = true ∧ hiHalf w4 = 0 then
    some (.dmaConfig (streamOf h) (ctrlOf w1) w2 w3 (loHalf w4))
  else none

/-! ## The opcode map -/

/-- One row of the opcode map of R95. `build` reads the operands from the header and the L operand words; it answers none
exactly for a reserved operand bit or value. -/
structure OpcodeRow where
  opc : Byte
  len : Nat
  pattern : Word
  mask : Word
  build : Word → List Word → Option Instr

/-- A row of a command without operand words. -/
def headerRow (opc : Byte) (pattern mask : Word) (f : Word → Option Instr) : OpcodeRow :=
  ⟨opc, 0, pattern, mask, fun h _ => f h⟩

/-- OPC 0x00 to 0x0F of R95: control and collaborators. -/
def ctlRows : List OpcodeRow :=
  [ headerRow 0x00 0x00000000 0xFFFFFFFF fun _ => some .ctlNop,
    headerRow 0x01 0x01000000 0xFFFFFFFF fun _ => some .ctlHalt,
    headerRow 0x02 0x02000000 0xFFF8FFFF fun h => some (.ctlWaitReady (streamOf h)),
    headerRow 0x03 0x03000000 0xFFFFFFFF fun _ => some .ctlWaitIdle,
    headerRow 0x08 0x08000000 0xFFFFFFFF fun _ => some .cpuIrqOff,
    headerRow 0x09 0x09000000 0xFFFFFFFF fun _ => some .cpuIrqOn,
    headerRow 0x0A 0x0A000000 0xFF00FFFF fun h => some (.irqEnable (argAOf h)),
    headerRow 0x0C 0x0C000000 0xFFFCFFFF fun h => (lineOf h).map .lineSet,
    headerRow 0x0D 0x0D000000 0xFFFCFFFF fun h => (lineOf h).map .lineClear,
    ⟨0x0E, 1, 0x0E000000, 0xFFFF0000, fun h ws =>
      match ws with
      | [w1] => some (.memWr16 (argBOf h) w1)
      | _ => none⟩ ]

/-- OPC 0x10 to 0x1F of R95: the DMA stream. -/
def dmaRows : List OpcodeRow :=
  [ ⟨0x10, 4, 0x10000000, 0xFFF8FFFF, fun h ws =>
      match ws with
      | [w1, w2, w3, w4] => dmaConfigOf h w1 w2 w3 w4
      | _ => none⟩,
    headerRow 0x11 0x11000000 0xFFF8FFFF fun h => some (.dmaStart (streamOf h)),
    headerRow 0x12 0x12000000 0xFFF8FFFF fun h => some (.dmaDisable (streamOf h)),
    headerRow 0x13 0x13000000 0xFFF8FFFF fun h => some (.dmaIsReady (streamOf h)),
    headerRow 0x14 0x14000000 0xFFF8FFE0 fun h => some (.dmaClear (streamOf h) (h.extractLsb' 0 5)),
    headerRow 0x15 0x15000000 0xFFF8FFFF fun h => some (.dmaStatus (streamOf h)) ]

/-- OPC 0x20 to 0x2F of R95: the SPI link and the mux. -/
def spiRows : List OpcodeRow :=
  [ headerRow 0x20 0x20000000 0xFFFEFFFF fun h => some (.spiConfig (modeOf h)),
    headerRow 0x21 0x21000000 0xFFFFFFFF fun _ => some .spiEnable,
    headerRow 0x22 0x22000000 0xFFFFFFFF fun _ => some .spiDisable,
    headerRow 0x23 0x23000000 0xFFFFFF00 fun h => some (.spiXchg (h.extractLsb' 0 8)),
    headerRow 0x24 0x24000000 0xFFFFFFFF fun _ => some .spiDmaReq ]

/-- OPC 0x30 to 0x3F of R95: the panel sequencer. -/
def seqRows : List OpcodeRow :=
  [ ⟨0x30, 2, 0x30000000, 0xFFFFFFFF, fun _ ws =>
      match ws with
      | [w1, w2] => some (.seqWindow (windowOf w1 w2))
      | _ => none⟩,
    ⟨0x31, 1, 0x31000000, 0xFFFFFFFF, fun _ ws =>
      match ws with
      | [w1] => some (.seqFill w1)
      | _ => none⟩,
    ⟨0x32, 3, 0x32000000, 0xFFFFFFFF, fun _ ws =>
      match ws with
      | [w1, w2, w3] => some (.seqFillWin (windowOf w1 w2) w3)
      | _ => none⟩,
    ⟨0x33, 2, 0x33000000, 0xFFFFFFFF, fun _ ws =>
      match ws with
      | [w1, w2] => some (.seqFillCtr (loHalf w1) (hiHalf w1) w2)
      | _ => none⟩,
    headerRow 0x34 0x34000000 0xFFFFFFFF fun _ => some .seqHandshake,
    headerRow 0x35 0x35000000 0xFFFFFFFF fun _ => some .seqState ]

/-- The opcode map (R95). Every OPC without a row is illegal (R102). -/
def opcodeRows : List OpcodeRow := ctlRows ++ dmaRows ++ spiRows ++ seqRows

/-- The row of an opcode. -/
def findRow (opc : Byte) : Option OpcodeRow := opcodeRows.find? fun r => r.opc == opc

/-! ## Decode -/

/-- Steps (3) to (5) of R92: the operand words are there, the header's reserved bits are zero, the operand words are legal. -/
def decodeRow (r : OpcodeRow) (h : Word) (ws : List Word) : Decoded :=
  if ws.length < r.len then .reject .pcEnd
  else if h &&& r.mask ≠ r.pattern then .reject .reserved
  else
    match r.build h (ws.take r.len) with
    | some i => .command i
    | none => .reject .reserved

/-- Decode the packet at the head of the words from fg.pc on, in the order of R92. -/
def decode : List Word → Decoded
  | [] => .reject .pcEnd
  | h :: ws =>
    match findRow (opcOf h) with
    | none => .reject .illegal
    | some r => decodeRow r h ws

/-! ## Encode -/

/-- A header word OPC || A || B (R91). -/
def headerWord (opc a : Byte) (b : Half) : Word := opc ++ a ++ b

/-- A header with a stream id in A[2:0] (R93). -/
def streamHeader (opc : Byte) (s : BitVec 3) (b : Half) : Word := headerWord opc (s.setWidth 8) b

/-- The code of a line id (R94). -/
def Line.code : Line → Byte
  | .cs => 0
  | .dc => 1
  | .rst => 2

/-- The code of a profile argument (R94). -/
def LinkMode.code : LinkMode → Byte
  | .command => 0
  | .streaming => 1

/-- The control word of R96. -/
def Ctrl.word (c : Ctrl) : Word :=
  0#11 ++ c.ie ++ 0#5 ++ c.fth ++ BitVec.ofBool c.fen ++ c.burst ++ c.esize ++ 0#1 ++ c.chsel

/-- The two operand words of a window (R97): xe || xs and ye || ys. -/
def Window.words (w : Window) : List Word := [w.xe ++ w.xs, w.ye ++ w.ys]

/-- The packet of a command: its header word and its operand words (R90, R95). -/
def encode : Instr → List Word
  | .ctlNop => [headerWord 0x00 0 0]
  | .ctlHalt => [headerWord 0x01 0 0]
  | .ctlWaitReady s => [streamHeader 0x02 s 0]
  | .ctlWaitIdle => [headerWord 0x03 0 0]
  | .cpuIrqOff => [headerWord 0x08 0 0]
  | .cpuIrqOn => [headerWord 0x09 0 0]
  | .irqEnable id => [headerWord 0x0A id 0]
  | .lineSet l => [headerWord 0x0C l.code 0]
  | .lineClear l => [headerWord 0x0D l.code 0]
  | .memWr16 v a => [headerWord 0x0E 0 v, a]
  | .dmaConfig s c src dst n => [streamHeader 0x10 s 0, c.word, src, dst, n.setWidth 32]
  | .dmaStart s => [streamHeader 0x11 s 0]
  | .dmaDisable s => [streamHeader 0x12 s 0]
  | .dmaIsReady s => [streamHeader 0x13 s 0]
  | .dmaClear s m => [streamHeader 0x14 s (m.setWidth 16)]
  | .dmaStatus s => [streamHeader 0x15 s 0]
  | .spiConfig p => [headerWord 0x20 p.code 0]
  | .spiEnable => [headerWord 0x21 0 0]
  | .spiDisable => [headerWord 0x22 0 0]
  | .spiXchg b => [headerWord 0x23 0 (b.setWidth 16)]
  | .spiDmaReq => [headerWord 0x24 0 0]
  | .seqWindow w => headerWord 0x30 0 0 :: w.words
  | .seqFill buf => [headerWord 0x31 0 0, buf]
  | .seqFillWin w buf => headerWord 0x32 0 0 :: (w.words ++ [buf])
  | .seqFillCtr w h buf => [headerWord 0x33 0 0, h ++ w, buf]
  | .seqHandshake => [headerWord 0x34 0 0]
  | .seqState => [headerWord 0x35 0 0]

/-! ## Words of the opcode table -/

/-- The five words (the longest packet, R95) an instruction numbered as spec/opcode_table.json numbers its bits is made of: the
first word is bits 31:0, each later operand word counts on from it; every bit at or above `nbits` is 0. -/
def tableWords (nbits w : Nat) : List Word :=
  (List.range 5).map fun j => BitVec.ofNat 32 ((w % 2 ^ nbits) >>> (32 * j))

/-- What the decoder reads from a table word. -/
def decodeTableWord (nbits w : Nat) : Option Instr :=
  match decode (tableWords nbits w) with
  | .command i => some i
  | .reject _ => none

end Sys2Proof
end

