-- ==== Sys2Proof/Config.lean ====
section
/-! DEFINITION. What is fixed for one machine, and what the spec leaves free.
The OPEN parameters of spec/00_scope.md section 4 are one plain-data structure, `Params`, an argument of the model (rule R4)
that State carries: a statement about every state is a statement about every choice of them (log 1).
The free values (which agent steps next, R6; a `draw`, R12) are constants without a body (log 4, log 5). -/

namespace Sys2Proof

/-- PANEL_W: the panel's width in pixels (spec/00_scope.md section 4). -/
abbrev Config.panelW : Nat := 240

/-- PANEL_H: the panel's height in pixels (spec/00_scope.md section 4). -/
abbrev Config.panelH : Nat := 320

/-- COUNT_MAX: the largest element count of a descriptor (spec/00_scope.md section 4). -/
abbrev Config.countMax : Nat := 65535

/-- CMD_CASET: the column-range panel command byte (R101). -/
abbrev Config.cmdCaset : Byte := 0x2A

/-- CMD_PASET: the row-range panel command byte (R101). -/
abbrev Config.cmdPaset : Byte := 0x2B

/-- CMD_RAMWR: the memory-write panel command byte (R101). -/
abbrev Config.cmdRamwr : Byte := 0x2C

/-- The element width of a descriptor (R26): ESIZE codes 0, 1, 2; code 3 is reserved and is no width. -/
inductive ElemSize where
  | byte
  | half
  | word
  deriving DecidableEq, Repr

/-- MEM_ORDER: the byte order of a multi-byte data-memory access (R72). -/
inductive ByteOrder where
  | little
  | big
  deriving DecidableEq, Repr

/-- One run of admitted byte addresses, `base` to `base + size - 1`. RAM is a list of them (R71, log 14). -/
structure Region where
  base : Nat
  size : Nat
  deriving DecidableEq, Repr

/-- BURST_OK as plain data (log 14): a predicate on (source address, count, element size).
Every predicate on these is one of these terms (Sys2Proof/Laws/Params.lean, `burstRule_complete`). -/
inductive BurstRule where
  /-- admits nothing -/
  | never
  /-- admits exactly one triple -/
  | only (a : Word) (n : Half) (e : ElemSize)
  /-- the address is `r` modulo `m` -/
  | addrMod (m r : Nat)
  /-- the count is `r` modulo `m` -/
  | countMod (m r : Nat)
  /-- not admitted by the rule -/
  | negate (p : BurstRule)
  /-- admitted by one of the two -/
  | either (p q : BurstRule)
  deriving DecidableEq, Repr

/-- The OPEN parameters of spec/00_scope.md section 4 (R4), but for CMD_STREAM and the launch image, which State holds beside
them. No command writes them. -/
structure Params where
  /-- STREAM_ID -/
  streamId : BitVec 3
  /-- SPI_TX_CHANNEL -/
  spiTxChannel : BitVec 3
  /-- SPI_DR_ADDR -/
  spiDrAddr : Word
  /-- DMA_IRQ_ID -/
  dmaIrqId : Byte
  /-- FIFO_DEPTH, at least 4 (`Params.wf`) -/
  fifoDepth : Nat
  /-- PIPE_FTH -/
  pipeFth : BitVec 2
  /-- BURST_OK -/
  burstOk : BurstRule
  /-- MEM_ORDER -/
  memOrder : ByteOrder
  /-- RAM -/
  ram : List Region
  /-- HOOK_PRESENT -/
  hookPresent : Bool
  /-- SPI_CPOL_CPHA: no rule reads it (R4, log 18) -/
  spiCpolCpha : BitVec 2
  /-- SPI_PRESC_CMD: no rule reads it (R4, log 18) -/
  spiPrescCmd : Nat
  /-- SPI_PRESC_STREAM: no rule reads it (R4, log 18) -/
  spiPrescStream : Nat
  deriving DecidableEq, Repr

/-- The test configuration TC0 of spec/95_test_vectors.md section 0 ("test values, not claims about the hardware").
`State.reset` carries it (DESIGN CHOICE, unsafe, log 1). -/
def Config.tc0 : Params where
  streamId := 2
  spiTxChannel := 3
  spiDrAddr := 0x50000000
  dmaIrqId := 7
  fifoDepth := 8
  pipeFth := 0
  burstOk := .addrMod 2 0
  memOrder := .little
  ram := [⟨0x20000000, 0x20000⟩]
  hookPresent := true
  spiCpolCpha := 0
  spiPrescCmd := 0
  spiPrescStream := 0

/-- Whose step is tried next (R5, R6). The engine's two steps can be enabled together, so each has a turn of its own (R129,
R130); the shifter's two never are (R170). -/
inductive Turn where
  | fg
  | hd
  | ie
  | deFetch
  | deHandoff
  | sh
  | env
  deriving DecidableEq, Repr, Inhabited

/-- The free choice of the agents that step next (R6): the turns of one round of the schedule, as many as it likes, before the
one turn that closes the round (R9, log 16). It has no body: a claim holds for every interleaving (log 4). -/
opaque Config.freeTurns : Nat → List Turn

/-- The free value behind a `draw` (R12), applied to the number of free draws taken before. It has no body (log 5). -/
opaque Config.freeByte : Nat → Byte

end Sys2Proof
end

