-- ==== Sys2Proof/Machine/State.lean ====
section
/-! DEFINITION. The state of the block (spec/10_state.md), its faults and refusals (spec/60_exceptions.md R250) and its reset
(spec/70_reset_and_hazards.md R280). State is plain data. -/

namespace Sys2Proof.Machine

/-! ## Faults and refusals (R250) -/

/-- The fault codes of R250. A fault halts the whole machine with the code recorded (R8). Each is safe: the spec itself
halts the machine there. -/
inductive Fault where
  /-- 0x01 F_ILLEGAL: OPC not in the opcode map; raised by the decode of a command (R92). Safe. -/
  | illegal
  /-- 0x02 F_RESERVED: a reserved bit or field value; raised by decode (R92, R94, R96). Safe. -/
  | reserved
  /-- 0x03 F_PC_END: a header or operand word at or past the end of CMD_STREAM; raised by decode (R21, R92). Safe. -/
  | pcEnd
  /-- 0x04 F_BAD_STREAM: a stream id other than STREAM_ID; raised by the DMA commands and CTL.WAITREADY (R93). Safe. -/
  | badStream
  /-- 0x05 F_FG_STREAMING: a standalone DMA or SPI mutation while StreamingArmed or Streaming (R190). Safe. -/
  | fgStreaming
  /-- 0x06 F_DMA_BUSY: DMA.CONFIG while EN = 1, DMA.START while Running (R120, R121). Safe. -/
  | dmaBusy
  /-- 0x07 F_DMA_NOT_ARMED: DMA.START when the stream is not Armed (R121). Safe. -/
  | dmaNotArmed
  /-- 0x08 F_ZERO_COUNT: DMA.START with a count of 0 (R121). Safe. -/
  | zeroCount
  /-- 0x09 F_ALIGN: a misaligned source, buffer or MEM.WR16 address (R120, R195, R196, R198, R231). Safe. -/
  | align
  /-- 0x0A F_BURST: a four-beat burst in direct mode, or one BURST_OK does not admit (R120, R195, R196, R198). Safe. -/
  | burst
  /-- 0x0B F_WIDTH: a handoff into a link not in StreamingMode or of an element not 16 bits wide; raised by DE (R130). Safe. -/
  | width
  /-- 0x0C F_SPI_ENABLED: SPI.CONFIG while SPE = 1 (R160). Safe. -/
  | spiEnabled
  /-- 0x0D F_SPI_BUSY: SPI.CONFIG while BSY; SPI.DISABLE while the stream is Running (R160, R163). Safe. -/
  | spiBusy
  /-- 0x0E F_SPI_MODE: an exchange outside CommandMode, SPI.DMAREQ outside StreamingMode (R165, R166, R193, R196, R198).
  Safe. -/
  | spiMode
  /-- 0x0F F_SPI_DISABLED: an exchange while SPE = 0 (R165, R193, R196, R198). Safe. -/
  | spiDisabled
  /-- 0x10 F_SPI_TXFULL: an exchange while the transmit buffer is full (R165, R193, R196, R198). Safe. -/
  | spiTxFull
  /-- 0x11 F_SPI_UNCONFIGURED: SPI.ENABLE with no profile written since reset (R162). Safe. -/
  | spiUnconfigured
  /-- 0x12 F_SEQ_STATE: a sequencer command from the wrong sequencer state (R193, R195, R196, R198). Safe. -/
  | seqState
  /-- 0x13 F_WINDOW: a window outside the panel, or a centered size of 0 or above the panel (R191, R193, R196 to R198). Safe. -/
  | window
  /-- 0x14 F_COUNT: a pixel count above 65535 (R192, R193, R196, R198). Safe. -/
  | count
  /-- 0x15 F_NOT_READY: a fill while the stream is enabled or its counter is not 0 (R195, R196, R198). Safe. -/
  | notReady
  /-- 0x16 F_MEM: MEM.WR16 to an address RAM does not admit (R231). Safe. -/
  | mem
  deriving DecidableEq, Repr

/-- Why a command is given no meaning (R8, R250). -/
inductive Refusal where
  /-- An instruction without a meaning in this model, by its mnemonic. No arm of exec uses it. Safe. -/
  | notModelled (mnemonic : String)
  /-- 0x81 REF_CANCEL: DMA.DISABLE while the stream is Running (R125). Safe: the spec refuses there. -/
  | cancel
  /-- 0x82 REF_DST: DMA.CONFIG with a destination other than SPI_DR_ADDR (R120). Safe: the spec refuses there. -/
  | dst
  deriving DecidableEq, Repr

/-! ## Parts of the state -/

/-- The five status flags of the stream (R28), which are also the kinds of a hook (R246). -/
inductive FlagKind where
  | tc
  | ht
  | te
  | dme
  | fe
  deriving DecidableEq, Repr

/-- A frame of the SPI data register: 8 or 16 bits (R33). -/
inductive Frame where
  | f8 (value : Byte)
  | f16 (value : Half)
  deriving DecidableEq, Repr

/-- The frame being shifted out, with CS and DC as sampled when its shift began (R33). -/
structure Shifting where
  frame : Frame
  cs0 : Bool
  dc0 : Bool
  deriving DecidableEq, Repr

/-- An event of the trace (R10). -/
inductive Event where
  /-- `Frame(cs, dc, width, value, stable)` (R100, R170) -/
  | frame (cs dc : Bool) (frame : Frame) (stable : Bool)
  /-- `Result(value)` (R220) -/
  | result (value : Word)
  /-- `Hook(kind, remaining)` (R246) -/
  | hook (kind : FlagKind) (remaining : Half)
  /-- `Fault(code)` (R253) -/
  | fault (code : Fault)
  /-- `Refused(code)` (R8) -/
  | refused (code : Refusal)
  /-- `Halt` (R225) -/
  | halt
  deriving DecidableEq, Repr

/-- dma.STATE (R25). -/
inductive DmaState where
  | idle
  | armed
  | running
  | complete
  | aborted
  deriving DecidableEq, Repr

/-- dma.BURST (R26): codes 0 and 1; the reserved codes are no burst size. -/
inductive Burst where
  | single
  | four
  deriving DecidableEq, Repr

/-- spi.PROFILE (R30). -/
inductive Profile where
  | none
  | command
  | streaming
  deriving DecidableEq, Repr

/-- seq.STATE (R40). -/
inductive SeqState where
  | idle
  | windowSet
  | streamingArmed
  | streaming
  deriving DecidableEq, Repr

/-- The handler context `hd` (R39): `active j S r`. -/
inductive Handler where
  | inactive
  | active (j : Nat) (status : BitVec 5) (remaining : Half)
  deriving DecidableEq, Repr

/-- The foreground (R21, R22, R44). -/
structure Fg where
  pc : Nat
  k : Nat
  halted : Bool
  savedMask : Bool
  status : BitVec 5
  remaining : Half
  deriving DecidableEq, Repr

/-- The interrupt collaborators (R23, R38). -/
structure Irq where
  masked : Bool
  srcEn : Bool
  deriving DecidableEq, Repr

/-- The DMA stream (R24 to R29). A FIFO element is held zero-extended to 32 bits (log 15). -/
structure Dma where
  en : Bool
  state : DmaState
  chsel : BitVec 3
  esize : ElemSize
  burst : Burst
  fen : Bool
  fth : BitVec 2
  ie : BitVec 5
  src : Word
  dst : Word
  ndtCfg : Half
  ndt : Half
  sr : BitVec 5
  fifo : List Word
  fetched : BitVec 17
  handed : BitVec 17
  req : Bool
  deriving DecidableEq, Repr

/-- The SPI link (R30 to R35). -/
structure Spi where
  profile : Profile
  spe : Bool
  txDmaEn : Bool
  txBuf : Option Frame
  shift : Option Shifting
  rxBuf : Option Byte
  gPrev : Bool
  deriving DecidableEq, Repr

/-- The GPIO lines, logical values (R37). -/
structure Lines where
  cs : Bool
  dc : Bool
  rst : Bool
  deriving DecidableEq, Repr

/-- The panel sequencer (R40, R41). -/
structure Seq where
  state : SeqState
  win : Window
  pixCnt : Half
  deriving DecidableEq, Repr

/-- The model's own fields: the agent choices (R6) and the draws (R12) still to come, each list used first to last and then the
constants of Config applied to a counter: of rounds begun for the choices, of draws taken for the draws (log 4, log 5). -/
structure Inputs where
  turns : List Turn
  turnAt : Nat
  bytes : List Byte
  byteAt : Nat
  deriving DecidableEq, Repr

/-- Data memory (R42): the bytes that differ from what an unlisted address reads as, addresses strictly rising (`Memory.wf`). -/
abbrev Memory := List Host.Cell

/-- The state of the block. -/
structure State where
  /-- RES (R20) -/
  res : Word
  fg : Fg
  irq : Irq
  dma : Dma
  spi : Spi
  line : Lines
  hd : Handler
  seq : Seq
  mem : Memory
  /-- oldest event first (R43) -/
  trace : List Event
  fault : Option Fault
  refused : Option Refusal
  /-- CMD_STREAM (R70, R83) -/
  prog : List Word
  /-- the OPEN parameters (R4) -/
  par : Params
  inp : Inputs
  deriving DecidableEq, Repr

/-- The outcome of a step or a meaning. -/
abbrev Outcome := Host.Outcome State Fault Refusal

/-! ## Reset (R280) -/

/-- The state after power-on reset for given launch arguments: the parameters (R4), the launch image (R42) and CMD_STREAM. -/
def State.launch (par : Params) (image : Memory) (prog : List Word) : State where
  res := 0
  fg := { pc := 0, k := 1, halted := false, savedMask := false, status := 0, remaining := 0 }
  irq := { masked := false, srcEn := false }
  dma :=
    { en := false, state := .idle, chsel := 0, esize := .byte, burst := .single, fen := false, fth := 0, ie := 0,
      src := 0, dst := 0, ndtCfg := 0, ndt := 0, sr := 0, fifo := [], fetched := 0, handed := 0, req := false }
  spi :=
    { profile := .none, spe := false, txDmaEn := false, txBuf := none, shift := none, rxBuf := none, gPrev := false }
  line := { cs := false, dc := false, rst := false }
  hd := .inactive
  seq := { state := .idle, win := { xs := 0, ys := 0, xe := 0, ye := 0 }, pixCnt := 0 }
  mem := image
  trace := []
  fault := none
  refused := none
  prog := prog
  par := par
  inp := { turns := [], turnAt := 0, bytes := [], byteAt := 0 }

/-- The machine right after reset: R280's values, with the launch arguments the log names (log 1 the parameters, log 2 no
program, log 3 no listed memory byte). -/
def State.reset : State := State.launch Config.tc0 [] []

end Sys2Proof.Machine
end

