-- ==== Sys2Proof/Machine/Operands.lean ====
section
/-! DEFINITION. Operand forms: element sizes and bursts (R26), the parameters that are predicates (R71, BURST_OK), windows and
their pixel counts (R191, R192, R197), the link's profile table (R161), element addresses (R126). -/

namespace Sys2Proof

/-! ## Descriptor operands -/

/-- The width an ESIZE code names; 3 is reserved (R26, R96). -/
def ElemSize.ofCode (c : BitVec 2) : Option ElemSize :=
  if c = 0 then some .byte else if c = 1 then some .half else if c = 2 then some .word else none

/-- `esz`, the element size in bytes: 1, 2, 4 (R26). -/
def ElemSize.bytes : ElemSize → Nat
  | .byte => 1
  | .half => 2
  | .word => 4

/-- The burst size a BURST code names; 2 and 3 are reserved (R26, R96). -/
def Machine.Burst.ofCode (c : BitVec 2) : Option Machine.Burst :=
  if c = 0 then some .single else if c = 1 then some .four else none

/-! ## The predicates among the parameters -/

/-- BURST_OK of a rule (spec/00_scope.md section 4). -/
def BurstRule.admits : BurstRule → Word → Half → ElemSize → Bool
  | .never, _, _, _ => false
  | .only a' n' e', a, n, e => a == a' && n == n' && e == e'
  | .addrMod m r, a, _, _ => a.toNat % m == r
  | .countMod m r, _, n, _ => n.toNat % m == r
  | .negate p, a, n, e => !p.admits a n e
  | .either p q, a, n, e => p.admits a n e || q.admits a n e

/-- The byte address lies in the region. -/
def Region.holds (r : Region) (a : Nat) : Bool := r.base ≤ a && a < r.base + r.size

/-- RAM(a) (R71). -/
def Params.ramByte (p : Params) (a : Word) : Bool := p.ram.any fun r => r.holds a.toNat

/-- An n-byte access at `a` is admitted: every byte is, addresses modulo 2^32 (R71). -/
def Params.admits (p : Params) (a : Word) (n : Nat) : Bool :=
  (List.range n).all fun i => p.ramByte (a + BitVec.ofNat 32 i)

/-- What the spec says of the parameters: FIFO_DEPTH is at least 4 (spec/00_scope.md section 4) and SPI_DR_ADDR is not in RAM
(R78). -/
def Params.wf (p : Params) : Bool := 4 ≤ p.fifoDepth && !p.ramByte p.spiDrAddr

/-! ## Windows -/

/-- R191: `xs <= xe < PANEL_W` and `ys <= ye < PANEL_H`. -/
def Window.valid (w : Window) : Bool :=
  decide (w.xs.toNat ≤ w.xe.toNat) && decide (w.xe.toNat < Config.panelW) &&
  decide (w.ys.toNat ≤ w.ye.toNat) && decide (w.ye.toNat < Config.panelH)

/-- R192, on unbounded naturals; meant for a valid window. -/
def Window.pixelCount (w : Window) : Nat :=
  (w.xe.toNat - w.xs.toNat + 1) * (w.ye.toNat - w.ys.toNat + 1)

/-- R197: `1 <= w <= PANEL_W` and `1 <= h <= PANEL_H`. -/
def centerSizeValid (w h : Half) : Bool :=
  decide (1 ≤ w.toNat) && decide (w.toNat ≤ Config.panelW) && decide (1 ≤ h.toNat) && decide (h.toNat ≤ Config.panelH)

/-- R197: the centered window of a valid size, floor division. -/
def centeredWindow (w h : Half) : Window where
  xs := BitVec.ofNat 16 ((Config.panelW - w.toNat) / 2)
  ys := BitVec.ofNat 16 ((Config.panelH - h.toNat) / 2)
  xe := BitVec.ofNat 16 ((Config.panelW - w.toNat) / 2 + w.toNat - 1)
  ye := BitVec.ofNat 16 ((Config.panelH - h.toNat) / 2 + h.toNat - 1)

/-- The two bytes of a coordinate, high byte first (R101). -/
def coordBytes (v : Half) : List Byte := [v.extractLsb' 8 8, v.extractLsb' 0 8]

/-! ## The link -/

/-- The profile an SPI.CONFIG argument names (R94, R160). -/
def LinkMode.profile : LinkMode → Machine.Profile
  | .command => .command
  | .streaming => .streaming

namespace Machine

/-- The control fields a profile fixes (R161). -/
structure LinkFields where
  /-- frame width in bits -/
  width : Nat
  /-- bit order: most significant bit first -/
  msbFirst : Bool
  /-- chip-select mode: software, the CS line -/
  softwareCs : Bool
  /-- transmit feed: the DMA (otherwise the CPU) -/
  dmaFed : Bool
  /-- direction: full duplex (otherwise transmit only) -/
  fullDuplex : Bool
  /-- role: controller -/
  controller : Bool
  cpolCpha : BitVec 2
  prescaler : Nat
  deriving DecidableEq, Repr

/-- The profile table (R161); None is "not configured". -/
def linkFields (p : Params) : Profile → Option LinkFields
  | .none => .none
  | .command => some ⟨8, true, true, false, true, true, p.spiCpolCpha, p.spiPrescCmd⟩
  | .streaming => some ⟨16, true, true, true, false, true, p.spiCpolCpha, p.spiPrescStream⟩

/-- The frame width of the profile in force, in bits (R161). -/
def linkWidth (p : Params) (q : Profile) : Option Nat := (linkFields p q).map LinkFields.width

/-- Whether a byte is received with each frame: the profile is full duplex, which CommandMode alone is (R161, R171). -/
def linkReceives (p : Params) (q : Profile) : Bool :=
  match linkFields p q with
  | some f => f.fullDuplex
  | .none => false

/-- The width of a frame in bits (R100). -/
def Frame.width : Frame → Nat
  | .f8 _ => 8
  | .f16 _ => 16

/-- The value of a frame, below 2^width (R100). -/
def Frame.value : Frame → Nat
  | .f8 v => v.toNat
  | .f16 v => v.toNat

/-- The bits of a frame in the order they are shifted out: most significant first (R73). -/
def Frame.wireBits : Frame → List Bool
  | .f8 v => (List.range 8).map fun i => v.getLsbD (7 - i)
  | .f16 v => (List.range 16).map fun i => v.getLsbD (15 - i)

/-! ## The stream -/

/-- The prefetch window W: FIFO_DEPTH in FIFO mode, 1 in direct mode (R127). -/
def prefetchWindow (p : Params) (d : Dma) : Nat := if d.fen then p.fifoDepth else 1

/-- The address of element i: `(SRC + i * esz) mod 2^32` (R126). -/
def elementAddr (d : Dma) (i : Nat) : Word := d.src + BitVec.ofNat 32 (i * d.esize.bytes)

end Machine

end Sys2Proof
end

