-- ==== Sys2Proof/Machine/Flags.lean ====
section
/-! DEFINITION. Flags, derived signals and status words: dma.SR (R28), the signals of R36, takeable (R241), the result words of
R99, and the codes of R25, R30, R40, R250. -/

namespace Sys2Proof.Machine

/-! ## The stream's flags (R28) -/

/-- The bit of a flag, the same in SR, IE and the DMA.CLEAR mask (R28, R99). -/
def FlagKind.bit : FlagKind → Nat
  | .tc => 0
  | .ht => 1
  | .te => 2
  | .dme => 3
  | .fe => 4

/-- The flag is set in a 5-bit flag word. -/
def hasFlag (v : BitVec 5) (k : FlagKind) : Bool := v.getLsbD k.bit

/-- The 5-bit word with one flag set. -/
def flagBit (k : FlagKind) : BitVec 5 := 1#5 <<< k.bit

/-- `SR[k] <- 1`. -/
def setFlag (v : BitVec 5) (k : FlagKind) : BitVec 5 := v ||| flagBit k

/-- `SR <- SR and not mask`: write-one-to-clear (R124). -/
def clearFlags (v mask : BitVec 5) : BitVec 5 := v &&& ~~~mask

/-- `SR[k] <- 0`. -/
def clearFlag (v : BitVec 5) (k : FlagKind) : BitVec 5 := clearFlags v (flagBit k)

/-! ## Derived signals (R36) -/

/-- TXE: the transmit buffer is empty. -/
def State.txe (s : State) : Bool := s.spi.txBuf.isNone

/-- BSY: the transmit buffer or the shift register is full. -/
def State.bsy (s : State) : Bool := s.spi.txBuf.isSome || s.spi.shift.isSome

/-- RXNE: a received byte is there. -/
def State.rxne (s : State) : Bool := s.spi.rxBuf.isSome

/-- GATE: the DMA request gate of the mux (R36, R168). -/
def State.gate (s : State) : Bool :=
  s.spi.spe && s.spi.txDmaEn && s.txe && decide (s.spi.profile = .streaming)

/-- READY: `is_ready`, the remaining-element counter is zero. -/
def State.ready (s : State) : Bool := s.dma.ndt == 0

/-- IRQ: an enabled flag is set (R36, R240). -/
def State.irqLine (s : State) : Bool := s.dma.sr &&& s.dma.ie != 0

/-- The interrupt is takeable (R241). -/
def State.takeable (s : State) : Bool :=
  s.fault.isNone && s.refused.isNone && decide (s.hd = .inactive) && s.irq.srcEn && !s.irq.masked && s.irqLine

/-! ## Codes -/

/-- The code of dma.STATE (R25). -/
def DmaState.code : DmaState → Word
  | .idle => 0
  | .armed => 1
  | .running => 2
  | .complete => 3
  | .aborted => 4

/-- The code of spi.PROFILE (R30). -/
def Profile.code : Profile → Word
  | .none => 0
  | .command => 1
  | .streaming => 2

/-- The code of seq.STATE (R40). -/
def SeqState.code : SeqState → Word
  | .idle => 0
  | .windowSet => 1
  | .streamingArmed => 2
  | .streaming => 3

/-- The fault codes of R250. -/
def Fault.code : Fault → Byte
  | .illegal => 0x01
  | .reserved => 0x02
  | .pcEnd => 0x03
  | .badStream => 0x04
  | .fgStreaming => 0x05
  | .dmaBusy => 0x06
  | .dmaNotArmed => 0x07
  | .zeroCount => 0x08
  | .align => 0x09
  | .burst => 0x0A
  | .width => 0x0B
  | .spiEnabled => 0x0C
  | .spiBusy => 0x0D
  | .spiMode => 0x0E
  | .spiDisabled => 0x0F
  | .spiTxFull => 0x10
  | .spiUnconfigured => 0x11
  | .seqState => 0x12
  | .window => 0x13
  | .count => 0x14
  | .notReady => 0x15
  | .mem => 0x16

/-- The refusal codes of R250; the spec has none for an instruction without a meaning. -/
def Refusal.code : Refusal → Option Byte
  | .cancel => some 0x81
  | .dst => some 0x82
  | _ => none

/-! ## Result words (R99) -/

/-- A flag at bit n of a result word. -/
def bitAt (n : Nat) (b : Bool) : Word := (if b then 1#32 else 0#32) <<< n

/-- The result of DMA.ISREADY (R99, R122). -/
def State.readyWord (s : State) : Word := bitAt 0 s.ready

/-- The result of DMA.STATUS (R99, R123): NDT, STATE, EN, SR. -/
def State.statusWord (s : State) : Word :=
  s.dma.ndt.setWidth 32 <<< 16 ||| s.dma.state.code <<< 9 ||| bitAt 8 s.dma.en ||| s.dma.sr.setWidth 32

/-- The block status word, the result of SEQ.STATE (R99, R200). -/
def State.blockWord (s : State) : Word :=
  s.seq.state.code ||| s.spi.profile.code <<< 4 ||| bitAt 8 s.spi.spe ||| bitAt 9 s.bsy ||| bitAt 10 s.spi.txDmaEn |||
  bitAt 11 s.rxne ||| bitAt 12 s.line.cs ||| bitAt 13 s.line.dc ||| bitAt 14 s.line.rst ||| bitAt 15 s.irq.masked |||
  bitAt 16 s.irq.srcEn

end Sys2Proof.Machine
end

