-- ==== Sys2Proof/Machine/Ops.lean ====
section
/-! DEFINITION. The shared operations: data memory (spec/20_memory.md), the trace, the draws, the checks of a command, its
micro-steps (R7), the descriptor overwrite (R120, R201), the request pulse and the end-of-step rule (R135, R168), the interrupt
entry and return (R242, R249), the fault and refusal marks (R8). -/

namespace Sys2Proof.Machine

/-! ## Data memory (R42, R71, R72) -/

/-- What a byte that nothing has written reads as (log 3). -/
def Memory.fresh : Byte := 0

/-- The byte at an address. -/
def Memory.read : Memory → Nat → Byte
  | [], _ => Memory.fresh
  | (a, b) :: m, x => if x = a then b else Memory.read m x

/-- Put a byte in front of a memory whose addresses are all larger, listing it only when it differs from a fresh byte. -/
def Memory.cons (a : Nat) (v : Byte) (m : Memory) : Memory := if v = Memory.fresh then m else (a, v) :: m

/-- Write one byte, keeping the canonical form. -/
def Memory.write : Memory → Nat → Byte → Memory
  | [], x, v => Memory.cons x v []
  | (a, b) :: m, x, v =>
    if x < a then Memory.cons x v ((a, b) :: m)
    else if x = a then Memory.cons x v m
    else (a, b) :: Memory.write m x v

/-- The canonical form: addresses strictly rising and below 2^32, no entry equal to a fresh byte. -/
def Memory.wf (m : Memory) : Bool :=
  decide (m.Pairwise fun c d => c.1 < d.1) && m.all fun c => decide (c.1 < 2 ^ 32) && c.2 != Memory.fresh

/-- The n bytes from `a` on, addresses modulo 2^32 (R71). -/
def bytesFrom (m : Memory) (a : Word) (n : Nat) : List Byte :=
  (List.range n).map fun i => Memory.read m (a + BitVec.ofNat 32 i).toNat

/-- The number whose bytes are these, least significant first. -/
def ofBytesLE : List Byte → Nat
  | [] => 0
  | b :: bs => b.toNat + 256 * ofBytesLE bs

/-- The n bytes of a number, least significant first. -/
def toBytesLE : Nat → Nat → List Byte
  | 0, _ => []
  | n + 1, v => BitVec.ofNat 8 v :: toBytesLE n (v / 256)

/-- A byte list in the order of memory (R72): little keeps least significant first, big reverses. -/
def inOrder (o : ByteOrder) (bs : List Byte) : List Byte :=
  match o with
  | .little => bs
  | .big => bs.reverse

/-- MemRead(a, n) (R72). -/
def State.memRead (s : State) (a : Word) (n : Nat) : Nat := ofBytesLE (inOrder s.par.memOrder (bytesFrom s.mem a n))

/-- Store bytes from `a` on, addresses modulo 2^32. -/
def storeBytes : Memory → Word → List Byte → Memory
  | m, _, [] => m
  | m, a, b :: bs => storeBytes (Memory.write m a.toNat b) (a + 1) bs

/-- MemWrite(a, n, v) (R72). -/
def State.memWrite (s : State) (a : Word) (n v : Nat) : State :=
  { s with mem := storeBytes s.mem a (inOrder s.par.memOrder (toBytesLE n v)) }

/-! ## Trace and results -/

/-- `emit e` (R12). -/
def State.emit (s : State) (e : Event) : State := { s with trace := s.trace ++ [e] }

/-- Write RES and emit Result in the same step (R220). -/
def State.giveResult (s : State) (v : Word) : State := { s with res := v, trace := s.trace ++ [.result v] }

/-! ## Draws (R12, log 5) -/

/-- `draw UInt8`. -/
def State.drawByte (s : State) : Byte × State :=
  match s.inp.bytes with
  | b :: bs => (b, { s with inp := { s.inp with bytes := bs } })
  | [] => (Config.freeByte s.inp.byteAt, { s with inp := { s.inp with byteAt := s.inp.byteAt + 1 } })

/-- The Boolean a drawn byte stands for. -/
def byteToBool (b : Byte) : Bool := b.getLsbD 0

/-- The error flag a drawn byte stands for: TE, DME or FE (R133). -/
def byteToError (b : Byte) : FlagKind :=
  match b.toNat % 3 with
  | 0 => .te
  | 1 => .dme
  | _ => .fe

/-! ## The schedule (R6, R9) -/

/-- The turn that closes round n of the schedule: the agents that fairness covers, one after the other (R9, log 16). -/
def fairTurn (n : Nat) : Turn :=
  match n % 6 with
  | 0 => .fg
  | 1 => .hd
  | 2 => .ie
  | 3 => .deFetch
  | 4 => .deHandoff
  | _ => .sh

/-- The next turn of a schedule: the first listed one; with none listed, the next round's free turns and the turn that closes
it are listed (R6, log 4). -/
def Inputs.nextTurn (free : Nat → List Turn) (q : Inputs) : Turn × Inputs :=
  match q.turns with
  | t :: ts => (t, { q with turns := ts })
  | [] =>
    match free q.turnAt with
    | t :: ts => (t, { q with turns := ts ++ [fairTurn q.turnAt], turnAt := q.turnAt + 1 })
    | [] => (fairTurn q.turnAt, { q with turnAt := q.turnAt + 1 })

/-- The choice of the next turn (R6, log 4): free, but every round ends, so every run is fair (R9, log 16). -/
def State.takeTurn (s : State) : Turn × State :=
  ((s.inp.nextTurn Config.freeTurns).1, { s with inp := (s.inp.nextTurn Config.freeTurns).2 })

/-! ## Faults and refusals (R8, R43) -/

/-- How a check ends a command. -/
inductive Stop where
  | fault (f : Fault)
  | refuse (r : Refusal)
  deriving DecidableEq, Repr

/-- The outcome of a failed check. -/
def Stop.outcome : Stop → Outcome
  | .fault f => .fault f
  | .refuse r => .refused r

/-- The first failing check decides (R13, R251): each entry is a failure condition and how it ends the command. -/
def firstStop : List (Bool × Stop) → Option Stop
  | [] => none
  | (fails, how) :: cs => if fails then some how else firstStop cs

/-- Perform the checks in order; when all pass, the effect `t` happens (R13). -/
def guarded (checks : List (Bool × Stop)) (t : State) : Outcome :=
  match firstStop checks with
  | none => .next t
  | some how => how.outcome

/-- Record a fault: the mark and the event `Fault(code)` (R8, R43, R253). -/
def State.markFault (s : State) (f : Fault) : State := { s with fault := some f, trace := s.trace ++ [.fault f] }

/-- Record a refusal: the mark and the event `Refused(code)` (R8, R43). -/
def State.markRefused (s : State) (r : Refusal) : State :=
  { s with refused := some r, trace := s.trace ++ [.refused r] }

/-- The fault a decode rejection raises (R92). -/
def decodeFault : DecodeError → Fault
  | .pcEnd => .pcEnd
  | .illegal => .illegal
  | .reserved => .reserved

/-- R93: a stream id other than STREAM_ID. -/
def wrongStream (s : State) (stream : BitVec 3) : Bool × Stop := (stream != s.par.streamId, .fault .badStream)

/-- R190: the foreground exclusion check. -/
def exclusion (s : State) : Bool × Stop :=
  (decide (s.seq.state = .streamingArmed ∨ s.seq.state = .streaming), .fault .fgStreaming)

/-! ## Interrupt mask (R23, R44) -/

/-- `irq.masked <- b`. -/
def State.setMasked (s : State) (b : Bool) : State := { s with irq := { s.irq with masked := b } }

/-- `fg.SAVEDMASK <- irq.masked; irq.masked <- 1`. -/
def State.saveAndMask (s : State) : State :=
  { s with fg := { s.fg with savedMask := s.irq.masked }, irq := { s.irq with masked := true } }

/-- `irq.masked <- fg.SAVEDMASK`. -/
def State.restoreMask (s : State) : State := { s with irq := { s.irq with masked := s.fg.savedMask } }

/-! ## Lines, link, sequencer -/

/-- `line[id] <- b` (R222, R223). -/
def State.setLine (s : State) (l : Line) (b : Bool) : State :=
  match l with
  | .cs => { s with line := { s.line with cs := b } }
  | .dc => { s with line := { s.line with dc := b } }
  | .rst => { s with line := { s.line with rst := b } }

/-- `spi.SPE <- b` (R164). -/
def State.setSpe (s : State) (b : Bool) : State := { s with spi := { s.spi with spe := b } }

/-- `spi_profile_write(p)` (R167). -/
def State.profileWrite (s : State) (p : Profile) : State :=
  { s with spi := { s.spi with profile := p, txDmaEn := false, rxBuf := none } }

/-- `spi.TXBUF <- f`. -/
def State.putTx (s : State) (f : Frame) : State := { s with spi := { s.spi with txBuf := some f } }

/-- `spi.RXBUF <- empty`. -/
def State.dropRx (s : State) : State := { s with spi := { s.spi with rxBuf := none } }

/-- `seq.STATE <- q`. -/
def State.setSeq (s : State) (q : SeqState) : State := { s with seq := { s.seq with state := q } }

/-- `seq.WIN <- w; seq.PIXCNT <- n; line.CS <- 1`: the effect of µ1 of the window commands (R193, R196). -/
def State.openWindow (s : State) (w : Window) : State :=
  { s with
    seq := { s.seq with win := w, pixCnt := BitVec.ofNat 16 w.pixelCount }
    line := { s.line with cs := true } }

/-! ## The stream -/

/-- What a configure writes (R26). -/
structure Descriptor where
  chsel : BitVec 3
  esize : ElemSize
  burst : Burst
  fen : Bool
  fth : BitVec 2
  ie : BitVec 5
  src : Word
  dst : Word
  count : Half
  deriving DecidableEq, Repr

/-- The full overwrite of a configure (R120, R201): clears the flags, the FIFO, FETCHED, HANDED and REQ; Armed. -/
def State.configure (s : State) (d : Descriptor) : State :=
  { s with
    dma :=
      { en := s.dma.en, state := .armed, chsel := d.chsel, esize := d.esize, burst := d.burst, fen := d.fen,
        fth := d.fth, ie := d.ie, src := d.src, dst := d.dst, ndtCfg := d.count, ndt := d.count, sr := 0, fifo := [],
        fetched := 0, handed := 0, req := false } }

/-- The pipeline descriptor of R201. -/
def pipelineDescriptor (p : Params) (buf : Word) (n : Half) : Descriptor :=
  { chsel := p.spiTxChannel, esize := .half, burst := .four, fen := true, fth := p.pipeFth, ie := 0b11101, src := buf,
    dst := p.spiDrAddr, count := n }

/-- `dma.EN <- 1; dma.STATE <- Running` (R121, µ12 of R195). -/
def State.startStream (s : State) : State := { s with dma := { s.dma with en := true, state := .running } }

/-- The disable-and-wait step's write: `if dma.STATE = Armed: dma.STATE <- Idle` (R125, µ8 of R195). -/
def State.unarm (s : State) : State :=
  { s with dma := { s.dma with state := if s.dma.state = .armed then .idle else s.dma.state } }

/-! ## Micro-steps (R7) -/

/-- The micro-steps after the first that the commands are made of. None of them can fault: every check is at µ1 (R167, R251). -/
inductive Micro where
  /-- `line.DC <- b` (R194) -/
  | setDc (b : Bool)
  /-- `spi.TXBUF <- (b, 8)` (xchg_seq, R167) -/
  | put (b : Byte)
  /-- `wait until RXNE` (xchg_seq, R165, R167) -/
  | waitRx
  /-- `spi.RXBUF <- empty` (xchg_seq, R167) -/
  | dropRx
  /-- µ3 of SPI.XCHG (R165) -/
  | takeResult
  /-- `wait until not BSY` (spi_disable_seq, R167) -/
  | waitNotBusy
  /-- `spi.SPE <- 0` (spi_disable_seq, R167) -/
  | clearSpe
  /-- `wait until spi.SPE = 0` (spi_disable_seq, R167) -/
  | waitSpeClear
  /-- `spi_profile_write(StreamingMode)` (µ5 of R195) -/
  | streamingProfile
  /-- `spi.SPE <- 1` (spi_enable_seq, R167) -/
  | setSpe
  /-- `wait until spi.SPE = 1` (spi_enable_seq, R162, R167) -/
  | waitSpeSet
  /-- µ8 of R195 -/
  | armSequencer
  /-- `wait until dma.EN = 0` (µ9 of R195, µ2 of R125) -/
  | waitDmaOff
  /-- `pipeline_configure(buf, seq.PIXCNT)` (µ10 of R195) -/
  | pipeline (buf : Word)
  /-- µ11 of R195 -/
  | selectData
  /-- µ12 of R195 -/
  | startStream
  /-- µ13 of R195 -/
  | requestOn
  /-- µ14 of R195 -/
  | restoreMask
  /-- µ40 of SEQ.WINDOW (R193) -/
  | windowSet
  /-- µ40 of SEQ.FILLWIN (R196) -/
  | windowSetMasked
  /-- µ2 of CTL.WAITREADY (R226) -/
  | waitReady
  /-- µ2 of CTL.WAITIDLE (R227) -/
  | waitSeqIdle
  deriving DecidableEq, Repr

/-- The condition of a wait; an action is always ready (R7). `takeResult` reads RXBUF, so it needs a byte (log 8). -/
def Micro.ready : Micro → State → Bool
  | .waitRx, s => s.rxne
  | .takeResult, s => s.rxne
  | .waitNotBusy, s => !s.bsy
  | .waitSpeClear, s => !s.spi.spe
  | .waitSpeSet, s => s.spi.spe
  | .waitDmaOff, s => !s.dma.en
  | .waitReady, s => s.ready
  | .waitSeqIdle, s => decide (s.seq.state = .idle) && decide (s.hd = .inactive)
  | .setDc _, _ | .put _, _ | .dropRx, _ | .clearSpe, _ | .streamingProfile, _ | .setSpe, _ | .armSequencer, _
  | .pipeline _, _ | .selectData, _ | .startStream, _ | .requestOn, _ | .restoreMask, _ | .windowSet, _
  | .windowSetMasked, _ => true

/-- The effect of a micro-step; a wait has none. -/
def Micro.act : Micro → State → State
  | .setDc b, s => s.setLine .dc b
  | .put b, s => s.putTx (.f8 b)
  | .dropRx, s => s.dropRx
  | .takeResult, s =>
    match s.spi.rxBuf with
    | some v => s.dropRx.giveResult (v.setWidth 32)
    | none => s
  | .clearSpe, s => s.setSpe false
  | .streamingProfile, s => s.profileWrite .streaming
  | .setSpe, s => s.setSpe true
  | .armSequencer, s => (s.setSeq .streamingArmed).unarm
  | .pipeline buf, s => s.configure (pipelineDescriptor s.par buf s.seq.pixCnt)
  | .selectData, s => { s with line := { s.line with cs := true, dc := true } }
  | .startStream, s => s.startStream
  | .requestOn, s => { s with spi := { s.spi with txDmaEn := true }, seq := { s.seq with state := .streaming } }
  | .restoreMask, s => s.restoreMask
  | .windowSet, s => s.setSeq .windowSet
  | .windowSetMasked, s => (s.setSeq .windowSet).saveAndMask
  | .waitRx, s | .waitNotBusy, s | .waitSpeClear, s | .waitSpeSet, s | .waitDmaOff, s | .waitReady, s
  | .waitSeqIdle, s => s

/-- Go to the next micro-step: after the last one `pc <- pc + len; k <- 1`, otherwise k + 1 (R7). `len` is `1 + L(OPC)`. -/
def State.advance (s : State) (len : Nat) (last : Bool) : State :=
  { s with fg := { s.fg with pc := if last then s.fg.pc + len else s.fg.pc, k := if last then 1 else s.fg.k + 1 } }

/-- One micro-step of a command (R7): µ1 is `first`, the micro-steps after it are `rest`, and fg.k says which one is next. A
wait that is false holds, and so does an index the command does not have (log 7). -/
def runCommand (len : Nat) (first : State → Outcome) (rest : List Micro) (s : State) : Outcome :=
  match s.fg.k with
  | 0 => .next s
  | 1 =>
    match first s with
    | .next t => .next (t.advance len rest.isEmpty)
    | .fault f => .fault f
    | .refused r => .refused r
  | n + 2 =>
    match rest[n]? with
    | none => .next s
    | some m => if m.ready s then .next ((m.act s).advance len (n + 1 == rest.length)) else .next s

/-- spi_disable_seq (R167). -/
def disableSeq : List Micro := [.waitNotBusy, .clearSpe, .waitSpeClear]

/-- spi_enable_seq (R167). -/
def enableSeq : List Micro := [.setSpe, .waitSpeSet]

/-- xchg_seq(b) (R167). -/
def xchgSeq (b : Byte) : List Micro := [.put b, .waitRx, .dropRx]

/-- The micro-steps of one group of window_bytes: a command byte with DC = 0, then its parameters with DC = 1 (R194). -/
def windowGroup (cmd : Byte) (params : List Byte) : List Micro :=
  [.setDc false] ++ xchgSeq cmd ++ (if params.isEmpty then [] else [.setDc true]) ++ params.flatMap xchgSeq

/-- window_bytes(xs, ys, xe, ye) (R194): 38 micro-steps. -/
def windowBytes (w : Window) : List Micro :=
  windowGroup Config.cmdCaset (coordBytes w.xs ++ coordBytes w.xe) ++
  windowGroup Config.cmdPaset (coordBytes w.ys ++ coordBytes w.ye) ++
  windowGroup Config.cmdRamwr []

/-- µ2 to µ14 of SEQ.FILL (R195). -/
def fillSteps (buf : Word) : List Micro :=
  disableSeq ++ [.streamingProfile] ++ enableSeq ++
  [.armSequencer, .waitDmaOff, .pipeline buf, .selectData, .startStream, .requestOn, .restoreMask]

/-! ## Requests and the end of a step (R135, R168) -/

/-- Deliver one request pulse to the stream (R135). -/
def State.deliverRequest (s : State) : State :=
  if s.dma.chsel ≠ s.par.spiTxChannel then s
  else if s.dma.state = .running then { s with dma := { s.dma with req := true } }
  else
    let d := s.drawByte
    { d.2 with dma := { d.2.dma with req := d.2.dma.req || byteToBool d.1 } }

/-- The edge rule at the end of every step (R168): a rising gate delivers one pulse, and GPREV follows the gate. -/
def State.endOfStep (s : State) : State :=
  let g := s.gate
  let t := if g && !s.spi.gPrev then s.deliverRequest else s
  { t with spi := { t.spi with gPrev := g } }

/-! ## The interrupt: entry and return (R242, R243 H11, R249) -/

/-- Taking the interrupt: one decoded status read, and the handler is active at H1 (H0 of R243). The foreground's context is
kept; nothing is pushed to memory. -/
def State.takeInterrupt (s : State) : State := { s with hd := .active 1 (s.dma.sr &&& s.dma.ie) s.dma.ndt }

/-- The return from the handler (H11). -/
def State.returnFromInterrupt (s : State) : State := { s with hd := .inactive }

/-- `Hook(kind, r)` when HOOK_PRESENT (R246). -/
def State.callHook (s : State) (k : FlagKind) (r : Half) : State :=
  if s.par.hookPresent then s.emit (.hook k r) else s

/-! ## Fetch (R90, R92) -/

/-- Decode the packet at fg.pc. -/
def State.fetch (s : State) : Decoded := decode (s.prog.drop s.fg.pc)

/-- Replace the words of a program from an index on, padding a shorter program with zero words. -/
def placeWords (prog : List Word) (pos : Nat) (ws : List Word) : List Word :=
  prog.take pos ++ List.replicate (pos - prog.length) 0 ++ ws ++ prog.drop (pos + ws.length)

/-- The state in which the foreground runs these words next, at fg.pc: the words placed there, no mark, the foreground neither
halted nor preempted nor inside a command, and the next turn its own (log 2). -/
def State.loadNext (s : State) (ws : List Word) : State :=
  { s with
    prog := placeWords s.prog s.fg.pc ws
    fg := { s.fg with k := 1, halted := false }
    hd := .inactive
    fault := none
    refused := none
    inp := { s.inp with turns := .fg :: s.inp.turns } }

end Sys2Proof.Machine
end

