-- ==== Sys2Proof/Machine/Control.lean ====
section
/-! DEFINITION. The control and collaborator commands, OPC 0x00 to 0x0F (spec/43_control.md). Each meaning is ONE micro-step of
its command, the one fg.k names (R7). -/

namespace Sys2Proof.Machine

/-- CTL.NOP (R224). -/
def execCtlNop (s : State) : Outcome := runCommand 1 (fun s => .next s) [] s

/-- CTL.HALT (R225): fg.pc is not advanced, and fg.k stays (log 19). -/
def execCtlHalt (s : State) : Outcome :=
  if s.fg.k = 1 then .next (({ s with fg := { s.fg with halted := true } } : State).emit .halt) else .next s

/-- CTL.WAITREADY (R226). -/
def execCtlWaitReady (stream : BitVec 3) (s : State) : Outcome :=
  runCommand 1 (fun s => guarded [wrongStream s stream] s) [.waitReady] s

/-- CTL.WAITIDLE (R227). -/
def execCtlWaitIdle (s : State) : Outcome := runCommand 1 (fun s => .next s) [.waitSeqIdle] s

/-- CPU.IRQOFF (R228). -/
def execCpuIrqOff (s : State) : Outcome := runCommand 1 (fun s => .next (s.setMasked true)) [] s

/-- CPU.IRQON (R229). -/
def execCpuIrqOn (s : State) : Outcome := runCommand 1 (fun s => .next (s.setMasked false)) [] s

/-- `if A = DMA_IRQ_ID: irq.SRCEN <- 1` (R230). -/
def State.enableSource (s : State) (id : Byte) : State :=
  if id = s.par.dmaIrqId then { s with irq := { s.irq with srcEn := true } } else s

/-- IRQ.ENABLE (R230). -/
def execIrqEnable (id : Byte) (s : State) : Outcome := runCommand 1 (fun s => .next (s.enableSource id)) [] s

/-- LINE.SET (R222). -/
def execLineSet (line : Line) (s : State) : Outcome := runCommand 1 (fun s => .next (s.setLine line true)) [] s

/-- LINE.CLEAR (R222). -/
def execLineClear (line : Line) (s : State) : Outcome := runCommand 1 (fun s => .next (s.setLine line false)) [] s

/-- The checks of MEM.WR16 (R231): alignment, then RAM. -/
def memWr16Checks (s : State) (addr : Word) : List (Bool × Stop) :=
  [(addr.toNat % 2 != 0, .fault .align), (!s.par.admits addr 2, .fault .mem)]

/-- MEM.WR16 (R231). -/
def execMemWr16 (value : Half) (addr : Word) (s : State) : Outcome :=
  runCommand 2 (fun s => guarded (memWr16Checks s addr) (s.memWrite addr 2 value.toNat)) [] s

end Sys2Proof.Machine
end

