-- ==== Sys2Proof/Machine/Dma.lean ====
section
/-! DEFINITION. The DMA stream commands, OPC 0x10 to 0x15 (spec/40_dma.md R120 to R125). Each meaning is ONE micro-step of its
command (R7). -/

namespace Sys2Proof.Machine

/-- The descriptor a DMA.CONFIG writes (R120). -/
def configDescriptor (c : Ctrl) (e : ElemSize) (b : Burst) (src dst : Word) (count : Half) : Descriptor :=
  { chsel := c.chsel, esize := e, burst := b, fen := c.fen, fth := c.fth, ie := c.ie, src := src, dst := dst,
    count := count }

/-- The checks of DMA.CONFIG in the order of R120. -/
def dmaConfigChecks (s : State) (stream : BitVec 3) (d : Descriptor) : List (Bool × Stop) :=
  [ wrongStream s stream,
    exclusion s,
    (s.dma.en, .fault .dmaBusy),
    (d.dst != s.par.spiDrAddr, .refuse .dst),
    (d.src.toNat % d.esize.bytes != 0, .fault .align),
    (decide (d.burst = .four) && !d.fen, .fault .burst),
    (decide (d.burst = .four) && !s.par.burstOk.admits d.src d.count d.esize, .fault .burst) ]

/-- DMA.CONFIG (R120). A control word with a reserved field value is the decode fault of R92 step (5) (log 13). -/
def execDmaConfig (stream : BitVec 3) (ctrl : Ctrl) (src dst : Word) (count : Half) (s : State) : Outcome :=
  runCommand 5
    (fun s =>
      match ElemSize.ofCode ctrl.esize, Burst.ofCode ctrl.burst with
      | some e, some b =>
        guarded (dmaConfigChecks s stream (configDescriptor ctrl e b src dst count))
          (s.configure (configDescriptor ctrl e b src dst count))
      | _, _ => .fault .reserved)
    [] s

/-- The checks of DMA.START in the order of R121. -/
def dmaStartChecks (s : State) (stream : BitVec 3) : List (Bool × Stop) :=
  [ wrongStream s stream,
    exclusion s,
    (decide (s.dma.state = .running), .fault .dmaBusy),
    (decide (s.dma.state ≠ .armed), .fault .dmaNotArmed),
    (s.dma.ndt == 0, .fault .zeroCount) ]

/-- DMA.START (R121). -/
def execDmaStart (stream : BitVec 3) (s : State) : Outcome :=
  runCommand 1 (fun s => guarded (dmaStartChecks s stream) s.startStream) [] s

/-- The checks of DMA.DISABLE in the order of R125; a running stream is refused. -/
def dmaDisableChecks (s : State) (stream : BitVec 3) : List (Bool × Stop) :=
  [wrongStream s stream, exclusion s, (decide (s.dma.state = .running), .refuse .cancel)]

/-- µ1 of DMA.DISABLE: Armed to Idle, EN cleared (R125). -/
def State.disableStream (s : State) : State := { s with dma := { s.unarm.dma with en := false } }

/-- DMA.DISABLE (R125). -/
def execDmaDisable (stream : BitVec 3) (s : State) : Outcome :=
  runCommand 1 (fun s => guarded (dmaDisableChecks s stream) s.disableStream) [.waitDmaOff] s

/-- DMA.ISREADY (R122). -/
def execDmaIsReady (stream : BitVec 3) (s : State) : Outcome :=
  runCommand 1 (fun s => guarded [wrongStream s stream] (s.giveResult s.readyWord)) [] s

/-- DMA.CLEAR (R124). -/
def execDmaClear (stream : BitVec 3) (mask : BitVec 5) (s : State) : Outcome :=
  runCommand 1
    (fun s =>
      guarded [wrongStream s stream, exclusion s] { s with dma := { s.dma with sr := clearFlags s.dma.sr mask } })
    [] s

/-- DMA.STATUS (R123). -/
def execDmaStatus (stream : BitVec 3) (s : State) : Outcome :=
  runCommand 1 (fun s => guarded [wrongStream s stream] (s.giveResult s.statusWord)) [] s

end Sys2Proof.Machine
end

