-- ==== Sys2Proof/Machine/Sequencer.lean ====
section
/-! DEFINITION. The panel sequencer commands, OPC 0x30 to 0x33 and 0x35 (spec/42_sequencer.md); SEQ.HANDSHAKE stands in
Machine/Teardown.lean. Each meaning is ONE micro-step of its command (R7). -/

namespace Sys2Proof.Machine

/-- The link checks of the window commands (R193, R196): CommandMode, enabled, transmit buffer empty. -/
def windowLinkChecks (s : State) : List (Bool × Stop) :=
  [ (decide (s.spi.profile ≠ .command), .fault .spiMode),
    (!s.spi.spe, .fault .spiDisabled),
    (!s.txe, .fault .spiTxFull) ]

/-- The checks of SEQ.WINDOW in the order of R193. -/
def seqWindowChecks (s : State) (w : Window) : List (Bool × Stop) :=
  [ (decide (s.seq.state ≠ .idle ∧ s.seq.state ≠ .windowSet), .fault .seqState),
    (!w.valid, .fault .window),
    (decide (Config.countMax < w.pixelCount), .fault .count) ] ++ windowLinkChecks s

/-- SEQ.WINDOW (R193, R194): 40 micro-steps. -/
def execSeqWindow (win : Window) (s : State) : Outcome :=
  runCommand 3 (fun s => guarded (seqWindowChecks s win) (s.openWindow win)) (windowBytes win ++ [.windowSet]) s

/-- "polled is_ready true" (R195, R196): the stream is off and its counter is 0. -/
def notReadyCheck (s : State) : Bool × Stop := (s.dma.en || s.dma.ndt != 0, .fault .notReady)

/-- The buffer checks of the fills (R195, R196). -/
def bufferChecks (s : State) (buf : Word) (n : Half) : List (Bool × Stop) :=
  [ (buf.toNat % 2 != 0, .fault .align),
    (!s.par.burstOk.admits buf n .half, .fault .burst) ]

/-- The checks of SEQ.FILL in the order of R195. -/
def seqFillChecks (s : State) (buf : Word) : List (Bool × Stop) :=
  [(decide (s.seq.state ≠ .windowSet), .fault .seqState), notReadyCheck s] ++ bufferChecks s buf s.seq.pixCnt

/-- SEQ.FILL (R195): 14 micro-steps. -/
def execSeqFill (buf : Word) (s : State) : Outcome :=
  runCommand 2 (fun s => guarded (seqFillChecks s buf) s.saveAndMask) (fillSteps buf) s

/-- The checks of SEQ.FILLWIN from F_COUNT on (R196, R198). -/
def fillWindowChecks (s : State) (w : Window) (buf : Word) : List (Bool × Stop) :=
  [(decide (Config.countMax < w.pixelCount), .fault .count)] ++ windowLinkChecks s ++ [notReadyCheck s] ++
  bufferChecks s buf (BitVec.ofNat 16 w.pixelCount)

/-- The fill entry points need Idle (R196, R198). -/
def idleCheck (s : State) : Bool × Stop := (decide (s.seq.state ≠ .idle), .fault .seqState)

/-- µ2 to µ53 of the two fill entry points (R196, R198). -/
def fillWindowSteps (w : Window) (buf : Word) : List Micro := windowBytes w ++ [.windowSetMasked] ++ fillSteps buf

/-- SEQ.FILLWIN (R196): 53 micro-steps. -/
def execSeqFillWin (win : Window) (buf : Word) (s : State) : Outcome :=
  runCommand 4
    (fun s => guarded ([idleCheck s, (!win.valid, .fault .window)] ++ fillWindowChecks s win buf) (s.openWindow win))
    (fillWindowSteps win buf) s

/-- SEQ.FILLCTR (R198): the centered window of R197, then as SEQ.FILLWIN from the F_COUNT check on. -/
def execSeqFillCtr (width height : Half) (buf : Word) (s : State) : Outcome :=
  runCommand 3
    (fun s =>
      guarded
        ([idleCheck s, (!centerSizeValid width height, .fault .window)] ++
          fillWindowChecks s (centeredWindow width height) buf)
        (s.openWindow (centeredWindow width height)))
    (fillWindowSteps (centeredWindow width height) buf) s

/-- SEQ.STATE (R200). -/
def execSeqState (s : State) : Outcome := runCommand 1 (fun s => .next (s.giveResult s.blockWord)) [] s

end Sys2Proof.Machine
end

