-- ==== Sys2Proof/Machine/Spi.lean ====
section
/-! DEFINITION. The SPI commands, OPC 0x20 to 0x24 (spec/41_spi.md R160 to R166). Each meaning is ONE micro-step of its command
(R7). -/

namespace Sys2Proof.Machine

/-- The checks of SPI.CONFIG in the order of R160. -/
def spiConfigChecks (s : State) : List (Bool × Stop) :=
  [exclusion s, (s.spi.spe, .fault .spiEnabled), (s.bsy, .fault .spiBusy)]

/-- SPI.CONFIG (R160; the busy check can fail with SPE = 0, log 20). -/
def execSpiConfig (mode : LinkMode) (s : State) : Outcome :=
  runCommand 1 (fun s => guarded (spiConfigChecks s) (s.profileWrite mode.profile)) [] s

/-- SPI.ENABLE (R162). -/
def execSpiEnable (s : State) : Outcome :=
  runCommand 1
    (fun s => guarded [exclusion s, (decide (s.spi.profile = .none), .fault .spiUnconfigured)] (s.setSpe true))
    [.waitSpeSet] s

/-- SPI.DISABLE (R163). -/
def execSpiDisable (s : State) : Outcome :=
  runCommand 1 (fun s => guarded [exclusion s, (decide (s.dma.state = .running), .fault .spiBusy)] s) disableSeq s

/-- The checks of SPI.XCHG in the order of R165. -/
def spiXchgChecks (s : State) : List (Bool × Stop) :=
  [ exclusion s,
    (decide (s.spi.profile ≠ .command), .fault .spiMode),
    (!s.spi.spe, .fault .spiDisabled),
    (!s.txe, .fault .spiTxFull) ]

/-- SPI.XCHG (R165). -/
def execSpiXchg (byte : Byte) (s : State) : Outcome :=
  runCommand 1 (fun s => guarded (spiXchgChecks s) (s.putTx (.f8 byte))) [.waitRx, .takeResult] s

/-- SPI.DMAREQ (R166). -/
def execSpiDmaReq (s : State) : Outcome :=
  runCommand 1
    (fun s =>
      guarded [exclusion s, (decide (s.spi.profile ≠ .streaming), .fault .spiMode)]
        { s with spi := { s.spi with txDmaEn := true } })
    [] s

end Sys2Proof.Machine
end

