-- ==== Sys2Proof/Machine/Teardown.lean ====
section
/-! DEFINITION. The teardown state machine H0 to H11 (spec/60_exceptions.md R243 to R249): one program, run by the handler HD and,
H0 to H10, by the foreground inside SEQ.HANDSHAKE. -/

namespace Sys2Proof.Machine

/-- One kind of H1: `if S[k]: dma.SR[k] <- 0; if HOOK_PRESENT: emit Hook(k, r)`. -/
def serviceFlag (status : BitVec 5) (r : Half) (s : State) (k : FlagKind) : State :=
  if hasFlag status k then ({ s with dma := { s.dma with sr := clearFlag s.dma.sr k } } : State).callHook k r else s

/-- H1: errors, then half transfer, in this order (R244). -/
def serviceErrors (status : BitVec 5) (r : Half) (s : State) : State :=
  [FlagKind.te, .dme, .fe, .ht].foldl (serviceFlag status r) s

/-- H2's write: `if S[TC]: dma.SR[TC] <- 0`. -/
def clearCompletion (status : BitVec 5) (s : State) : State :=
  if hasFlag status .tc then { s with dma := { s.dma with sr := clearFlag s.dma.sr .tc } } else s

/-- The teardown guard G of H2 (R245). -/
def teardownGuard (status : BitVec 5) (s : State) : Bool := hasFlag status .tc && decide (s.seq.state = .streaming)

/-- Step Hj for j = 1 to 10, with the index of the step after it; none when it holds at its wait (or j is no such step). The
guard is kept as the index H2 goes to (R243). H9 is a wait and a write in one micro-step (log 11). -/
def teardownStep (j : Nat) (status : BitVec 5) (r : Half) (s : State) : Option (Nat × State) :=
  match j with
  | 1 => some (2, serviceErrors status r s)
  | 2 => some (if teardownGuard status s then 3 else 10, clearCompletion status s)
  | 3 => some (4, s.setLine .cs false)
  | 4 => if s.bsy then none else some (5, s)
  | 5 => some (6, s.setSpe false)
  | 6 => if s.spi.spe then none else some (7, s)
  | 7 => some (8, s.profileWrite .command)
  | 8 => some (9, s.setSpe true)
  | 9 => if s.spi.spe then some (10, s.setSeq .idle) else none
  | 10 => some (11, if hasFlag status .tc then s.callHook .tc r else s)
  | _ => none

/-- The entry step IE (R242, log 21); without a takeable interrupt it holds. -/
def entryStep (s : State) : State := if s.takeable then s.takeInterrupt else s

/-- One step of the handler HD (R243, R249): H11 returns; a step that holds changes nothing. -/
def handlerStep (s : State) : State :=
  match s.hd with
  | .inactive => s
  | .active j status r =>
    if j = 11 then s.returnFromInterrupt
    else
      match teardownStep j status r s with
      | none => s
      | some (j', t) => { t with hd := .active j' status r }

/-- SEQ.HANDSHAKE (R199): µ1 saves and sets the mask, µ2 is H0, µ3 to µ12 are H1 to H10 with S and r in fg.S and fg.R, µ13
restores the mask (log 12). -/
def execSeqHandshake (s : State) : Outcome :=
  if s.fg.k = 1 then .next (s.saveAndMask.advance 1 false)
  else if s.fg.k = 2 then
    .next
      (({ s with fg := { s.fg with status := s.dma.sr &&& s.dma.ie, remaining := s.dma.ndt } } : State).advance 1 false)
  else if s.fg.k = 13 then .next (s.restoreMask.advance 1 true)
  else if s.fg.k < 2 then .next s
  else
    match teardownStep (s.fg.k - 2) s.fg.status s.fg.remaining s with
    | none => .next s
    | some (j', t) => .next { t with fg := { t.fg with k := j' + 2 } }

end Sys2Proof.Machine
end

