-- ==== Sys2Proof/Machine/Dispatch.lean ====
section
/-! DEFINITION. exec: one arm per command of the opcode table, each one call of its meaning (spec/30_encoding.md R95). -/

namespace Sys2Proof.Machine

def exec (i : Instr) (s : State) : Host.Outcome State Fault Refusal :=
  match i with
  | .ctlNop => Sys2Proof.Machine.execCtlNop s
  | .ctlHalt => Sys2Proof.Machine.execCtlHalt s
  | .ctlWaitReady stream => Sys2Proof.Machine.execCtlWaitReady stream s
  | .ctlWaitIdle => Sys2Proof.Machine.execCtlWaitIdle s
  | .cpuIrqOff => Sys2Proof.Machine.execCpuIrqOff s
  | .cpuIrqOn => Sys2Proof.Machine.execCpuIrqOn s
  | .irqEnable id => Sys2Proof.Machine.execIrqEnable id s
  | .lineSet line => Sys2Proof.Machine.execLineSet line s
  | .lineClear line => Sys2Proof.Machine.execLineClear line s
  | .memWr16 value addr => Sys2Proof.Machine.execMemWr16 value addr s
  | .dmaConfig stream ctrl src dst count => Sys2Proof.Machine.execDmaConfig stream ctrl src dst count s
  | .dmaStart stream => Sys2Proof.Machine.execDmaStart stream s
  | .dmaDisable stream => Sys2Proof.Machine.execDmaDisable stream s
  | .dmaIsReady stream => Sys2Proof.Machine.execDmaIsReady stream s
  | .dmaClear stream mask => Sys2Proof.Machine.execDmaClear stream mask s
  | .dmaStatus stream => Sys2Proof.Machine.execDmaStatus stream s
  | .spiConfig mode => Sys2Proof.Machine.execSpiConfig mode s
  | .spiEnable => Sys2Proof.Machine.execSpiEnable s
  | .spiDisable => Sys2Proof.Machine.execSpiDisable s
  | .spiXchg byte => Sys2Proof.Machine.execSpiXchg byte s
  | .spiDmaReq => Sys2Proof.Machine.execSpiDmaReq s
  | .seqWindow win => Sys2Proof.Machine.execSeqWindow win s
  | .seqFill buf => Sys2Proof.Machine.execSeqFill buf s
  | .seqFillWin win buf => Sys2Proof.Machine.execSeqFillWin win buf s
  | .seqFillCtr width height buf => Sys2Proof.Machine.execSeqFillCtr width height buf s
  | .seqHandshake => Sys2Proof.Machine.execSeqHandshake s
  | .seqState => Sys2Proof.Machine.execSeqState s

end Sys2Proof.Machine
end

