-- ==== Sys2Proof/Machine/Engine.lean ====
section
/-! DEFINITION. The DMA engine DE (spec/40_dma.md R126 to R132) and the environment's error step ENV (R133). -/

namespace Sys2Proof.Machine

/-- The fetch step is enabled (R129): Running, elements left to read, room in the prefetch window. -/
def State.fetchEnabled (s : State) : Bool :=
  decide (s.dma.state = .running) && decide (s.dma.fetched.toNat < s.dma.ndtCfg.toNat) &&
  decide (s.dma.fetched.toNat - s.dma.handed.toNat < prefetchWindow s.par s.dma)

/-- The stream stops on an error (R129, R133): EN cleared, Aborted, FIFO emptied; NDT keeps its value. -/
def State.abortStream (s : State) : State :=
  { s with dma := { s.dma with en := false, state := .aborted, fifo := [] } }

/-- `dma.SR[k] <- 1`. -/
def State.raiseFlag (s : State) (k : FlagKind) : State := { s with dma := { s.dma with sr := setFlag s.dma.sr k } }

/-- The effect of a fetch (R129): one admitted element into the FIFO; an unadmitted read is a transfer error. -/
def State.fetchElement (s : State) : State :=
  let a := elementAddr s.dma s.dma.fetched.toNat
  if s.par.admits a s.dma.esize.bytes then
    { s with
      dma :=
        { s.dma with
          fifo := s.dma.fifo ++ [BitVec.ofNat 32 (s.memRead a s.dma.esize.bytes)]
          fetched := s.dma.fetched + 1 } }
  else (s.raiseFlag .te).abortStream

/-- The DE fetch step (R129); it holds when not enabled. -/
def fetchStep (s : State) : State := if s.fetchEnabled then s.fetchElement else s

/-- The handoff step is enabled (R130): Running, a latched request, an element in the FIFO, the transmit buffer empty. -/
def State.handoffEnabled (s : State) : Bool :=
  decide (s.dma.state = .running) && s.dma.req && !s.dma.fifo.isEmpty && s.txe

/-- R132: the new counter is half of the configured count, rounded down. -/
def State.halfTransfer (s : State) : State :=
  if s.dma.ndt.toNat = s.dma.ndtCfg.toNat / 2 then s.raiseFlag .ht else s

/-- R131: the new counter is 0: TC, EN cleared, Complete. -/
def State.complete (s : State) : State :=
  if s.dma.ndt = 0 then
    { s with dma := { s.dma with sr := setFlag s.dma.sr .tc, en := false, state := .complete } }
  else s

/-- The element at the FIFO's head (R130); the step is enabled only with one there. -/
def State.fifoHead (s : State) : Word := s.dma.fifo.headD 0

/-- The write to SPI_DR_ADDR with the counter's decrement, before R132 and R131 (R130). -/
def State.handElement (s : State) : State :=
  { s with
    spi := { s.spi with txBuf := some (.f16 (s.fifoHead.setWidth 16)) }
    dma :=
      { s.dma with
        fifo := s.dma.fifo.tail, req := false, handed := s.dma.handed + 1, ndt := s.dma.ndt - 1 } }

/-- The DE handoff step (R130 to R132); it holds when not enabled, and faults F_WIDTH for a link not in StreamingMode or an
element that is not 16 bits wide. -/
def handoffStep (s : State) : Outcome :=
  if s.handoffEnabled then
    if s.spi.profile ≠ .streaming ∨ linkWidth s.par .streaming ≠ some (8 * s.dma.esize.bytes) then .fault .width
    else .next s.handElement.halfTransfer.complete
  else .next s

/-- The ENV error step (R133), enabled while Running: a drawn error flag, and TE or a second draw stops the stream. -/
def errorStep (s : State) : State :=
  if s.dma.state = .running then
    let d1 := s.drawByte
    let d2 := d1.2.drawByte
    let k := byteToError d1.1
    if k = .te ∨ byteToBool d2.1 then (d2.2.raiseFlag k).abortStream else d2.2.raiseFlag k
  else s

end Sys2Proof.Machine
end

