-- ==== Sys2Proof/Machine/Shifter.lean ====
section
/-! DEFINITION. The SPI shifter SH (spec/41_spi.md R170, R171). -/

namespace Sys2Proof.Machine

/-- The load step's effect (R170): the frame leaves TXBUF, CS and DC are sampled. -/
def State.loadShift (s : State) (f : Frame) : State :=
  { s with spi := { s.spi with txBuf := none, shift := some ⟨f, s.line.cs, s.line.dc⟩ } }

/-- Receive (R171): in CommandMode a drawn byte, overwriting an unread one; otherwise nothing. -/
def State.receive (s : State) : State :=
  if linkReceives s.par s.spi.profile then
    let d := s.drawByte
    { d.2 with spi := { d.2.spi with rxBuf := some d.1 } }
  else s

/-- The emit step's effect (R170, R171). -/
def State.emitFrame (s : State) (x : Shifting) : State :=
  ({ s with
      trace := s.trace ++ [.frame x.cs0 x.dc0 x.frame (decide (s.line.cs = x.cs0 ∧ s.line.dc = x.dc0))]
      spi := { s.spi with shift := none } } : State).receive

/-- One step of SH (R170): emit when a frame is being shifted, else load; both need SPE; otherwise it holds. -/
def shifterStep (s : State) : State :=
  if s.spi.spe then
    match s.spi.shift, s.spi.txBuf with
    | some x, _ => s.emitFrame x
    | none, some f => s.loadShift f
    | none, none => s
  else s

end Sys2Proof.Machine
end

