-- ==== Sys2Proof/Machine/Agents.lean ====
section
/-! DEFINITION. The step of each agent (spec/00_scope.md R5, R6). An agent without an enabled step holds: its turn changes nothing
(R8 outcome (4), log 6). -/

namespace Sys2Proof.Machine

/-- One micro-step of the foreground (R7, R221): halted or preempted it holds; otherwise the packet at fg.pc is decoded (R92)
and the command's micro-step performed (log 10). -/
def foregroundStep (s : State) : Outcome :=
  if s.fg.halted || decide (s.hd ≠ .inactive) then .next s
  else
    match s.fetch with
    | .reject e => .fault (decodeFault e)
    | .command i => exec i s

/-- The step of the agent whose turn it is. -/
def turnStep (t : Turn) (s : State) : Outcome :=
  match t with
  | .fg => foregroundStep s
  | .hd => .next (handlerStep s)
  | .ie => .next (entryStep s)
  | .deFetch => .next (fetchStep s)
  | .deHandoff => handoffStep s
  | .sh => .next (shifterStep s)
  | .env => .next (errorStep s)

/-- The end of a machine step (R6, R8): the edge rule after a completed step; a fault or refusal is recorded in the state the
step began with (log 9). -/
def State.settle (s : State) (o : Outcome) : State :=
  match o with
  | .next t => t.endOfStep
  | .fault f => s.markFault f
  | .refused r => s.markRefused r

/-- One machine step of a state without a mark: the free choice of a turn (R6), that agent's step, the end of the step. -/
def liveStep (s : State) : State := s.takeTurn.2.settle (turnStep s.takeTurn.1 s.takeTurn.2)

end Sys2Proof.Machine
end

