-- ==== Sys2Proof/Machine/Step.lean ====
section
/-! DEFINITION. The machine step (spec/00_scope.md R6, R8), and the state in which a given instruction is fetched next. -/

namespace Sys2Proof.Machine

/-- One step. A machine that has faulted or refused has no next step: its outcome is the recorded code (R8, R43, log 9). -/
def step (s : State) : Host.Outcome State Fault Refusal :=
  match s.fault, s.refused with
  | some f, _ => .fault f
  | none, some r => .refused r
  | none, none => .next (liveStep s)

/-- `s` with the instruction of a table word placed at fg.pc and fetched by the very next step (log 2). -/
def State.withFetchWord (s : State) (nbits w : Nat) : State := s.loadNext (tableWords nbits w)

end Sys2Proof.Machine
end

