-- ==== Sys2Proof/Safety.lean ====
section
/-! DEFINITION. The terms claims use: which steps are enabled (spec/43_control.md R221), final and stuck states
(spec/70_reset_and_hazards.md R295), fair schedules (spec/00_scope.md R9), and the invariants of the block (R25, R128, R169,
R202, R243 to R247, R260). -/

namespace Sys2Proof

open Machine

/-- The micro-steps of a command after its first (R7). SEQ.HANDSHAKE's are the teardown's (R199) and are not in this list. -/
def Instr.laterSteps : Instr → List Micro
  | .ctlWaitReady _ => [.waitReady]
  | .ctlWaitIdle => [.waitSeqIdle]
  | .dmaDisable _ => [.waitDmaOff]
  | .spiEnable => [.waitSpeSet]
  | .spiDisable => disableSeq
  | .spiXchg _ => [.waitRx, .takeResult]
  | .seqWindow w => windowBytes w ++ [.windowSet]
  | .seqFill buf => fillSteps buf
  | .seqFillWin w buf => fillWindowSteps w buf
  | .seqFillCtr w h buf => fillWindowSteps (centeredWindow w h) buf
  | .ctlNop | .ctlHalt | .cpuIrqOff | .cpuIrqOn | .irqEnable _ | .lineSet _ | .lineClear _ | .memWr16 _ _
  | .dmaConfig _ _ _ _ _ | .dmaStart _ | .dmaIsReady _ | .dmaClear _ _ | .dmaStatus _ | .spiConfig _ | .spiDmaReq
  | .seqHandshake | .seqState => []

namespace Machine

/-- The micro-steps still to come of the command the foreground is inside of; none at µ1, where it has not begun. -/
def State.pending (s : State) : List Micro :=
  match s.fetch with
  | .command i => if s.fg.k < 2 then [] else i.laterSteps.drop (s.fg.k - 2)
  | .reject _ => []

/-- The foreground is inside SEQ.HANDSHAKE, and fg.k says where (R199). -/
def State.inHandshake (s : State) : Prop := s.fetch = .command .seqHandshake ∧ 2 ≤ s.fg.k

/-! ## Enabled steps and the end of a run (R221, R295) -/

/-- The outcome of a foreground micro-step is no hold: it stops, or the foreground's own fields change (R8). -/
def State.moves (s : State) : Outcome → Bool
  | .next t => decide (t.fg ≠ s.fg)
  | .fault _ | .refused _ => true

/-- FG has an enabled step (R221). -/
def State.fgEnabled (s : State) : Bool :=
  s.fault.isNone && s.refused.isNone && !s.fg.halted && decide (s.hd = .inactive) &&
  match s.fetch with
  | .reject _ => true
  | .command i => s.moves (exec i s)

/-- HD has an enabled step (R243). -/
def State.hdEnabled (s : State) : Bool :=
  match s.hd with
  | .inactive => false
  | .active j status r => j == 11 || (teardownStep j status r s).isSome

/-- SH has an enabled step (R170). -/
def State.shEnabled (s : State) : Bool := s.spi.spe && s.bsy

/-- Some step of FG, HD, DE, SH or IE is enabled (R295). -/
def State.anyEnabled (s : State) : Bool :=
  s.fgEnabled || s.hdEnabled || s.takeable || s.fetchEnabled || s.handoffEnabled || s.shEnabled

/-- A final state (R295). -/
def State.final (s : State) : Bool :=
  s.fault.isNone && s.refused.isNone && s.fg.halted && decide (s.hd = .inactive) && !s.takeable &&
  decide (s.dma.state ≠ .running) && !s.bsy

/-- A stuck state (R295). -/
def State.stuck (s : State) : Bool := s.fault.isNone && s.refused.isNone && !s.anyEnabled && !s.final

/-- The step a turn stands for is enabled (R221, R243, R241, R129, R130, R170, R133); none is in a marked state (R43). -/
def State.turnEnabled (s : State) (t : Turn) : Bool :=
  s.fault.isNone && s.refused.isNone &&
  match t with
  | .fg => s.fgEnabled
  | .hd => s.hdEnabled
  | .ie => s.takeable
  | .deFetch => s.fetchEnabled
  | .deHandoff => s.handoffEnabled
  | .sh => s.shEnabled
  | .env => decide (s.dma.state = .running)

/-! ## Runs and fairness (R6, R9) -/

/-- A schedule that names every agent fairness covers again and again (R9, log 16); ENV need not occur. -/
def fairSchedule (turns : Nat → Turn) : Prop :=
  ∀ t : Turn, t ≠ .env → ∀ n : Nat, ∃ m : Nat, n ≤ m ∧ turns m = t

/-- An execution that no fault and no refusal ends: each state is the step of the one before. -/
def isRun (run : Nat → State) : Prop := ∀ n : Nat, step (run n) = .next (run (n + 1))

/-- Weak fairness (R9): a step of FG, HD, DE, SH or IE that stays enabled is eventually taken. -/
def weaklyFair (run : Nat → State) : Prop :=
  ∀ t : Turn, t ≠ .env → ∀ n : Nat, (∀ m : Nat, n ≤ m → (run m).turnEnabled t = true) →
    ∃ m : Nat, n ≤ m ∧ (run m).takeTurn.1 = t

/-- n steps of the machine, stopping at the first fault or refusal. -/
def runSteps : Nat → State → Outcome
  | 0, s => .next s
  | n + 1, s =>
    match step s with
    | .next t => runSteps n t
    | .fault f => .fault f
    | .refused r => .refused r

/-- The state with these turns put before the ones it has (log 4). -/
def State.scheduled (s : State) (ts : List Turn) : State :=
  { s with inp := { s.inp with turns := ts ++ s.inp.turns } }

/-- The foreground is free to step (R221): no mark, not halted, not preempted. -/
structure State.fgFree (s : State) : Prop where
  noFault : s.fault = none
  noRefusal : s.refused = none
  notHalted : s.fg.halted = false
  notPreempted : s.hd = .inactive

/-- A fill is under way (R190): the standalone stream and link commands are excluded. -/
def State.fillUnderWay (s : State) : Prop := s.seq.state = .streamingArmed ∨ s.seq.state = .streaming

/-- No frame and no received byte is in the link, and GPREV is the gate (R35, R168). -/
structure State.linkQuiet (s : State) : Prop where
  notBusy : s.bsy = false
  nothingReceived : s.rxne = false
  gateKept : s.spi.gPrev = s.gate

/-- What the window commands need of the link (R193, R196): CommandMode, enabled, transmit buffer empty. -/
structure State.linkReady (s : State) : Prop where
  commandMode : s.spi.profile = .command
  enabled : s.spi.spe = true
  txEmpty : s.spi.txBuf = none

/-- What a fill needs of the stream and of its buffer (R195, R196), for n elements. -/
structure State.fillReady (s : State) (buf : Word) (n : Half) : Prop where
  streamOff : s.dma.en = false
  countZero : s.dma.ndt = 0
  aligned : buf.toNat % 2 = 0
  burst : s.par.burstOk.admits buf n .half = true

/-- The command is over: `pc <- pc + len; k <- 1` (R7). -/
def State.done (s : State) (len : Nat) : State := { s with fg := { s.fg with pc := s.fg.pc + len, k := 1 } }

/-- The command goes on with its next micro-step (R7). -/
def State.goOn (s : State) : State := { s with fg := { s.fg with k := s.fg.k + 1 } }

/-- The turns of one exchange (R167): put, the shifter's load and emit, the wait, the drop. -/
def exchangeTurns : List Turn := [.fg, .sh, .sh, .fg, .fg]

/-- The turns of one group of window_bytes with n parameters (R194). -/
def groupTurns (n : Nat) : List Turn :=
  [.fg] ++ exchangeTurns ++ (if n = 0 then [] else [.fg]) ++ (List.replicate n exchangeTurns).flatten

/-- The turns of µ1 to µ40 of a window command (R193, R196) in which the shifter sends each byte at once. -/
def windowTurns : List Turn := [.fg] ++ groupTurns 4 ++ groupTurns 4 ++ groupTurns 0 ++ [.fg]

/-- The eleven frames of window_bytes (R194): each byte with its DC level, CS = 1, stable. -/
def windowFrames (w : Window) : List Event :=
  [ (0x2A, false), (w.xs.extractLsb' 8 8, true), (w.xs.extractLsb' 0 8, true), (w.xe.extractLsb' 8 8, true),
    (w.xe.extractLsb' 0 8, true), (0x2B, false), (w.ys.extractLsb' 8 8, true), (w.ys.extractLsb' 0 8, true),
    (w.ye.extractLsb' 8 8, true), (w.ye.extractLsb' 0 8, true), (0x2C, false) ].map
    fun (b, dc) => .frame true dc (.f8 b) true

/-- The event is a hook (R246). -/
def Event.isHook : Event → Bool
  | .hook _ _ => true
  | _ => false

/-- One round of a running stream: fetch, handoff, load, emit. -/
def streamTurns : List Turn := [.deFetch, .deHandoff, .sh, .sh]

/-! ## Invariants -/

/-- The stream (R25, R128, R131): EN exactly while Running; the counters and the FIFO agree (in Aborted the FIFO has been
emptied, log 17); TC is set only in Complete, where NDT is 0; a fill under way has not started the stream, and starts it from Armed. -/
structure EngineInv (s : State) : Prop where
  enRunning : s.dma.en = true ↔ s.dma.state = .running
  counted : s.dma.ndt.toNat + s.dma.handed.toNat = s.dma.ndtCfg.toNat
  handedLe : s.dma.handed.toNat ≤ s.dma.fetched.toNat
  fetchedLe : s.dma.fetched.toNat ≤ s.dma.ndtCfg.toNat
  fifoLength : s.dma.state ≠ .aborted → s.dma.fifo.length + s.dma.handed.toNat = s.dma.fetched.toNat
  inWindow : s.dma.fetched.toNat - s.dma.handed.toNat ≤ prefetchWindow s.par s.dma
  completeFlag : hasFlag s.dma.sr .tc = true → s.dma.state = .complete
  completeCount : s.dma.state = .complete → s.dma.ndt = 0
  notStarted : Micro.startStream ∈ s.pending → s.dma.state ≠ .running
  armedStart : Micro.startStream ∈ s.pending → (∀ buf, Micro.pipeline buf ∉ s.pending) → s.dma.state = .armed

/-- A frame in the link has the width of the profile in force: the mux admits one feed at a time (R169). -/
def frameFits (q : Profile) : Frame → Prop
  | .f8 _ => q = .command
  | .f16 _ => q = .streaming

/-- The foreground is inside an exchange: its frame is on its way or its byte is still to be read (R165, R167). -/
def awaitsByte (m : Micro) : Prop := m = .waitRx ∨ m = .dropRx ∨ m = .takeResult

/-- How full the link is in CommandMode, by the foreground's next micro-step (R165, R171): empty outside an exchange; one of
transmit buffer, shift register and receive buffer at its wait; only the receive buffer at its read. -/
def exchangeState (s : State) : Option Micro → Prop
  | some .waitRx =>
    (s.spi.txBuf.isSome = true ∧ s.spi.shift = none ∧ s.spi.rxBuf = none) ∨
    (s.spi.txBuf = none ∧ s.spi.shift.isSome = true ∧ s.spi.rxBuf = none) ∨
    (s.bsy = false ∧ s.rxne = true)
  | some .dropRx => s.bsy = false ∧ s.rxne = true
  | some .takeResult => s.bsy = false ∧ s.rxne = true
  | _ => s.bsy = false ∧ s.rxne = false

/-- What a run of the teardown at step j means, for the status it read at H0 (R243, R245, R247): H3 to H9 only while Streaming
with the stream Complete; CS low from H4 on; the link empty from H5 on, disabled from H6 to H8, in CommandMode from H8 on and
enabled again at H9. -/
structure TeardownAt (s : State) (j : Nat) (status : BitVec 5) : Prop where
  complete : hasFlag status .tc = true → s.dma.state = .complete
  guarded : 3 ≤ j → j ≤ 9 → hasFlag status .tc = true ∧ s.seq.state = .streaming
  deselected : 4 ≤ j → j ≤ 9 → s.line.cs = false
  drained : 5 ≤ j → j ≤ 9 → s.bsy = false
  disabled : 6 ≤ j → j ≤ 8 → s.spi.spe = false
  reconfigured : 8 ≤ j → j ≤ 9 → s.spi.profile = .command ∧ s.spi.txDmaEn = false ∧ s.spi.rxBuf = none
  enabled : j = 9 → s.spi.spe = true

/-- The link, the sequencer and the handler (R169, R194, R202, R243 to R248, R260). -/
structure LinkInv (s : State) : Prop where
  txFits : ∀ f, s.spi.txBuf = some f → frameFits s.spi.profile f
  shiftFits : ∀ x, s.spi.shift = some x → frameFits s.spi.profile x.frame
  exchange : s.spi.profile = .command → exchangeState s s.pending.head?
  inExchange : ∀ m ∈ s.pending, awaitsByte m →
    s.spi.profile = .command ∧ s.spi.spe = true ∧ s.seq.state ≠ .streamingArmed ∧ s.seq.state ≠ .streaming
  windowSet : Micro.windowSet ∈ s.pending → s.seq.state = .idle ∨ s.seq.state = .windowSet
  windowSetMasked : Micro.windowSetMasked ∈ s.pending → s.seq.state = .idle
  fillWaits : Micro.armSequencer ∈ s.pending → Micro.windowSetMasked ∉ s.pending → s.seq.state = .windowSet
  armed : s.seq.state = .streamingArmed ↔ Micro.requestOn ∈ s.pending ∧ Micro.armSequencer ∉ s.pending
  masked : Micro.restoreMask ∈ s.pending → Micro.windowSetMasked ∉ s.pending → s.irq.masked = true ∧ s.hd = .inactive
  notFed : Micro.clearSpe ∈ s.pending → s.dma.state ≠ .running
  drained : Micro.clearSpe ∈ s.pending → Micro.waitNotBusy ∉ s.pending → s.bsy = false
  stillDrained : Micro.streamingProfile ∈ s.pending → Micro.clearSpe ∉ s.pending → s.bsy = false
  handler : ∀ j status r, s.hd = .active j status r → 1 ≤ j ∧ j ≤ 11 ∧ TeardownAt s j status
  handshake : s.inHandshake →
    s.hd = .inactive ∧ s.irq.masked = true ∧ (3 ≤ s.fg.k → TeardownAt s (s.fg.k - 2) s.fg.status)

/-- The link is enabled while a fill is under way (R193, R195, R196, R243): SPE is not cleared under a fill but by the teardown, from
its H5 on, and H8 sets it again. -/
structure EnableInv (s : State) : Prop where
  notCleared : Micro.clearSpe ∈ s.pending → s.seq.state ≠ .streamingArmed ∧ s.seq.state ≠ .streaming
  waitedFor : Micro.armSequencer ∈ s.pending → Micro.waitSpeSet ∉ s.pending → s.spi.spe = true
  armed : s.seq.state = .streamingArmed → s.spi.spe = true
  streaming : s.seq.state = .streaming →
    s.spi.spe = true ∨ (∃ j status r, s.hd = .active j status r ∧ 6 ≤ j ∧ j ≤ 8) ∨
    (s.inHandshake ∧ 8 ≤ s.fg.k ∧ s.fg.k ≤ 10)

/-- The memory keeps its canonical form, and GPREV is the gate of the state (R35, R168). -/
structure BaseInv (s : State) : Prop where
  memory : Memory.wf s.mem = true
  gate : s.spi.gPrev = s.gate

/-- The invariant of the block. -/
structure Inv (s : State) : Prop where
  base : BaseInv s
  engine : EngineInv s
  link : LinkInv s
  enable : EnableInv s

end Machine

end Sys2Proof
end

