-- ==== Sys2Proof/Certificates/Slice0/Obligations.lean ====
section
/-! DEFINITION. The statements for the provers, file by file of spec/. A statement about a command is about ONE micro-step (`exec`
at the index fg.k, R7) unless it says that it runs the command to its end. A free value (a drawn byte, a turn) is never a number
here: a statement holds for every value of it. -/

open Sys2Proof Sys2Proof.Machine

/-! ## Encoding and decoding (spec/30_encoding.md) -/

/-- R90 to R98: the packet the encoder writes decodes to the command it was written for, whatever words follow it. -/
def Obligations.DecodeOfEncode : Prop :=
  ∀ (i : Instr) (rest : List Word), i.wf = true → decode (encode i ++ rest) = .command i

/-- R90 to R98, R102: words that decode to a command begin with exactly that command's packet (no bit of it is free), and the
command is well formed. -/
def Obligations.EncodeOfDecode : Prop :=
  ∀ (ws : List Word) (i : Instr), decode ws = .command i →
    i.wf = true ∧ 1 + i.operandWords ≤ ws.length ∧ ws.take (1 + i.operandWords) = encode i

/-- R95: the opcodes without a row are exactly the illegal ones. -/
def Obligations.IllegalOpcodes : Prop :=
  ∀ (h : Word) (ws : List Word),
    decode (h :: ws) = .reject .illegal ↔
      (0x04 ≤ h.toNat / 2 ^ 24 ∧ h.toNat / 2 ^ 24 ≤ 0x07) ∨ h.toNat / 2 ^ 24 = 0x0B ∨ h.toNat / 2 ^ 24 = 0x0F ∨
      (0x16 ≤ h.toNat / 2 ^ 24 ∧ h.toNat / 2 ^ 24 ≤ 0x1F) ∨ (0x25 ≤ h.toNat / 2 ^ 24 ∧ h.toNat / 2 ^ 24 ≤ 0x2F) ∨
      (0x36 ≤ h.toNat / 2 ^ 24 ∧ h.toNat / 2 ^ 24 ≤ 0xFF)

/-- R92: the five steps of decode in their order, and a rejected packet faults in the foreground's step with the code of the
step that rejected it. R92 decodes at µ1; that the packet is decoded at every micro-step, as the last clause has it for every
fg.k, is the model's choice (log 10). -/
def Obligations.DecodeOrder : Prop :=
  ∀ s : State,
    (s.prog.length ≤ s.fg.pc → s.fetch = .reject .pcEnd) ∧
    (∀ h : Word, s.prog[s.fg.pc]? = some h →
      (findRow (opcOf h) = none → s.fetch = .reject .illegal) ∧
      ∀ r : OpcodeRow, findRow (opcOf h) = some r →
        (s.prog.length ≤ s.fg.pc + r.len → s.fetch = .reject .pcEnd) ∧
        (s.fg.pc + r.len < s.prog.length → h &&& r.mask ≠ r.pattern → s.fetch = .reject .reserved) ∧
        (s.fg.pc + r.len < s.prog.length → h &&& r.mask = r.pattern →
          r.build h ((s.prog.drop (s.fg.pc + 1)).take r.len) = none → s.fetch = .reject .reserved) ∧
        (∀ i : Instr, s.fg.pc + r.len < s.prog.length → h &&& r.mask = r.pattern →
          r.build h ((s.prog.drop (s.fg.pc + 1)).take r.len) = some i → s.fetch = .command i)) ∧
    (s.fgFree →
      (s.fetch = .reject .pcEnd → foregroundStep s = .fault .pcEnd) ∧
      (s.fetch = .reject .illegal → foregroundStep s = .fault .illegal) ∧
      (s.fetch = .reject .reserved → foregroundStep s = .fault .reserved))

/-- R94, R96, R97, R98: the reserved operand bits and values are refused, and every operand word's fields are read where the rules
put them. -/
def Obligations.OperandWords : Prop :=
  ((∀ (stream : BitVec 3) (w1 w2 w3 w4 : Word) (rest : List Word),
     ((w1 &&& 0xFFE0F808 ≠ 0 ∨ w1.extractLsb' 4 2 = 3 ∨ w1.extractLsb' 6 2 = 2 ∨ w1.extractLsb' 6 2 = 3 ∨
         w4.extractLsb' 16 16 ≠ 0) →
       decode (streamHeader 0x10 stream 0 :: w1 :: w2 :: w3 :: w4 :: rest) = .reject .reserved) ∧
     (w1 &&& 0xFFE0F808 = 0 → w1.extractLsb' 4 2 ≠ 3 → w1.extractLsb' 6 2 ≠ 2 → w1.extractLsb' 6 2 ≠ 3 →
       w4.extractLsb' 16 16 = 0 →
       decode (streamHeader 0x10 stream 0 :: w1 :: w2 :: w3 :: w4 :: rest) =
         .command
           (.dmaConfig stream
             { chsel := w1.extractLsb' 0 3, esize := w1.extractLsb' 4 2, burst := w1.extractLsb' 6 2,
               fen := w1.getLsbD 8, fth := w1.extractLsb' 9 2, ie := w1.extractLsb' 16 5 }
             w2 w3 (w4.extractLsb' 0 16)))) ∧
   (∀ rest : List Word,
     decode (0x0C030000 :: rest) = .reject .reserved ∧ decode (0x0D030000 :: rest) = .reject .reserved)) ∧
  (∀ (w1 w2 w3 : Word) (v : Half) (rest : List Word),
     decode (0x30000000 :: w1 :: w2 :: rest) =
       .command (.seqWindow ⟨w1.extractLsb' 0 16, w2.extractLsb' 0 16, w1.extractLsb' 16 16, w2.extractLsb' 16 16⟩) ∧
     decode (0x32000000 :: w1 :: w2 :: w3 :: rest) =
       .command
         (.seqFillWin ⟨w1.extractLsb' 0 16, w2.extractLsb' 0 16, w1.extractLsb' 16 16, w2.extractLsb' 16 16⟩ w3) ∧
     decode (0x33000000 :: w1 :: w2 :: rest) = .command (.seqFillCtr (w1.extractLsb' 0 16) (w1.extractLsb' 16 16) w2) ∧
     decode (0x31000000 :: w1 :: rest) = .command (.seqFill w1) ∧
     decode (headerWord 0x0E 0 v :: w1 :: rest) = .command (.memWr16 v w1))

/-- R95, R99: a few words of the spec's own test vectors decode to the commands it names for them. -/
def Obligations.DecodeFewWords : Prop :=
  decode [0x00000000] = .command .ctlNop ∧
  decode [0x0A070000] = .command (.irqEnable 7) ∧
  decode [0x0C020000] = .command (.lineSet .rst) ∧
  decode [0x0E00F800, 0x20000000] = .command (.memWr16 0xF800 0x20000000) ∧
  decode [0x11020000] = .command (.dmaStart 2) ∧
  decode [0x14020001] = .command (.dmaClear 2 1) ∧
  decode [0x20010000] = .command (.spiConfig .streaming) ∧
  decode [0x2300002A] = .command (.spiXchg 0x2A) ∧
  decode [0x32000000, 0x006D000A, 0x003B000A, 0x20000000] = .command (.seqFillWin ⟨10, 10, 109, 59⟩ 0x20000000) ∧
  decode [0x33000000, 0x00F000F0, 0x20000000] = .command (.seqFillCtr 240 240 0x20000000) ∧
  decode [0x35000000] = .command .seqState

/-! ## The machine step (spec/00_scope.md R5 to R8, spec/43_control.md R221) -/

/-- R6, R8, R92: when it is the foreground's turn and the words at fg.pc decode to a command, the step is that command's
micro-step, followed by the edge rule of R168; a fault or a refusal is recorded in the state the step began with (log 9). Taking
the turn changes nothing but the model's own inputs (log 4). -/
def Obligations.StepRunsDecoded : Prop :=
  ∀ (s : State) (i : Instr), s.fgFree → s.takeTurn.1 = .fg → decode (s.prog.drop s.fg.pc) = .command i →
    s.takeTurn.2 = { s with inp := s.takeTurn.2.inp } ∧
    step s =
      match exec i s.takeTurn.2 with
      | .next t => .next t.endOfStep
      | .fault f => .next { s.takeTurn.2 with fault := some f, trace := s.trace ++ [.fault f] }
      | .refused r => .next { s.takeTurn.2 with refused := some r, trace := s.trace ++ [.refused r] }

/-- R6, R8, R43, R92, R221: a machine without a mark takes the step of the agent whose turn it is, with the edge rule after it.
The foreground's turn: halted or preempted it holds; free, a rejected packet's fault is recorded (a decoded command's turn is
`StepRunsDecoded`). Only the handoff step of DE can fault outside the foreground, and that fault is recorded. Once a fault or a
refusal is recorded no agent steps; the machine answers the recorded code. How a turn is chosen and a mark recorded is the
model's choice (logs 4 and 9). -/
def Obligations.StepRunsTheTurn : Prop :=
  (∀ s : State, s.fault = none → s.refused = none →
     (s.takeTurn.1 = .fg → s.fg.halted = true ∨ s.hd ≠ .inactive → step s = .next s.takeTurn.2.endOfStep) ∧
     (s.takeTurn.1 = .fg → s.fg.halted = false → s.hd = .inactive →
       ∀ (e : DecodeError) (f : Fault), decode (s.prog.drop s.fg.pc) = .reject e →
         (e = .pcEnd ∧ f = .pcEnd) ∨ (e = .illegal ∧ f = .illegal) ∨ (e = .reserved ∧ f = .reserved) →
         step s = .next { s.takeTurn.2 with fault := some f, trace := s.trace ++ [.fault f] }) ∧
     (s.takeTurn.1 = .hd → step s = .next (handlerStep s.takeTurn.2).endOfStep) ∧
     (s.takeTurn.1 = .ie → step s = .next (entryStep s.takeTurn.2).endOfStep) ∧
     (s.takeTurn.1 = .deFetch → step s = .next (fetchStep s.takeTurn.2).endOfStep) ∧
     (s.takeTurn.1 = .deHandoff → ∀ t, handoffStep s.takeTurn.2 = .next t → step s = .next t.endOfStep) ∧
     (s.takeTurn.1 = .deHandoff → handoffStep s.takeTurn.2 = .fault .width →
       step s = .next { s.takeTurn.2 with fault := some .width, trace := s.trace ++ [.fault .width] }) ∧
     (s.takeTurn.1 = .sh → step s = .next (shifterStep s.takeTurn.2).endOfStep) ∧
     (s.takeTurn.1 = .env → step s = .next (errorStep s.takeTurn.2).endOfStep)) ∧
  (∀ s : State,
     (∀ f, s.fault = some f → step s = .fault f) ∧
     (∀ r, s.fault = none → s.refused = some r → step s = .refused r))

/-- R221, R7, R22, R39, R248: the foreground has an enabled step exactly when there is no mark, it is neither halted nor preempted,
and the next micro-step is not a wait that is false: each wait's condition is written out, for the micro-steps of the commands'
lists and for those of SEQ.HANDSHAKE; µ1 is an action, and so is the fault of a rejected packet. A step that is not enabled holds,
one that is enabled does not. While the handler is active there is no entry. That the byte's read of SPI.XCHG needs a byte and how
SEQ.HANDSHAKE's micro-steps are numbered is the model's choice (logs 8 and 12). -/
def Obligations.ForegroundAdmission : Prop :=
  (∀ s : State,
     let free : Prop := s.fault = none ∧ s.refused = none ∧ s.fg.halted = false ∧ s.hd = .inactive
     (¬ free → s.fgEnabled = false) ∧
     (free →
       (∀ e : DecodeError, s.fetch = .reject e → s.fgEnabled = true) ∧
       (∀ i : Instr, s.fetch = .command i → s.fg.k = 1 → s.fgEnabled = true) ∧
       (∀ m : Micro, s.pending.head? = some m →
         (s.fgEnabled = true ↔
           match m with
           | .waitRx | .takeResult => s.spi.rxBuf ≠ none
           | .waitNotBusy => s.spi.txBuf = none ∧ s.spi.shift = none
           | .waitSpeClear => s.spi.spe = false
           | .waitSpeSet => s.spi.spe = true
           | .waitDmaOff => s.dma.en = false
           | .waitReady => s.dma.ndt = 0
           | .waitSeqIdle => s.seq.state = .idle
           | .setDc _ | .put _ | .dropRx | .clearSpe | .streamingProfile | .setSpe | .armSequencer | .pipeline _
           | .selectData | .startStream | .requestOn | .restoreMask | .windowSet | .windowSetMasked => True)) ∧
       (s.fetch = .command .seqHandshake → 2 ≤ s.fg.k → s.fg.k ≤ 13 →
         (s.fgEnabled = true ↔
           (s.fg.k = 6 → s.spi.txBuf = none ∧ s.spi.shift = none) ∧ (s.fg.k = 8 → s.spi.spe = false) ∧
           (s.fg.k = 11 → s.spi.spe = true))) ∧
       (s.fgEnabled = true ↔ foregroundStep s ≠ .next s))) ∧
  (∀ s : State,
     (s.fg.halted = true → foregroundStep s = .next s) ∧
     (s.hd ≠ .inactive → foregroundStep s = .next s ∧ entryStep s = s))

/-- R251, R252, R125, R120: a step raises a fault only in the foreground, but for the handoff's F_WIDTH; a refusal is the
foreground's alone and one of the two the spec names. -/
def Obligations.OnlyTheseAgentsStop : Prop :=
  ∀ (turn : Turn) (s : State),
    (∀ f, turnStep turn s = .fault f → turn = .fg ∨ (turn = .deHandoff ∧ f = .width)) ∧
    (∀ r, turnStep turn s = .refused r → turn = .fg ∧ (r = .cancel ∨ r = .dst))

/-- R9, R6, R242, R247: every run is weakly fair: its schedule names FG, HD, IE, both steps of DE and SH again and again, so a step
of theirs that stays enabled is eventually taken; ENV's need not be. Hence the handler always returns: in every run from a state of
the invariant an active handler becomes inactive, its drain wait included. How the schedule is made fair is the model's choice
(logs 4 and 16). -/
def Obligations.EveryRunIsWeaklyFair : Prop :=
  (∀ run : Nat → State, isRun run → fairSchedule (fun n => (run n).takeTurn.1) ∧ weaklyFair run) ∧
  (∀ run : Nat → State, isRun run → Inv (run 0) → (run 0).hd ≠ .inactive → ∃ n : Nat, (run n).hd = .inactive)

/-- R83, R4, R10: no step writes CMD_STREAM or a parameter, and the trace only grows. -/
def Obligations.ProgramFixedTraceGrows : Prop :=
  (∀ s t : State, step s = .next t → t.prog = s.prog ∧ t.par = s.par) ∧
  (∀ s t : State, step s = .next t → ∃ es : List Event, t.trace = s.trace ++ es)

/-- R4, R246: SPI_CPOL_CPHA, SPI_PRESC_CMD and SPI_PRESC_STREAM are read by no rule: two machines that differ only in them take
the same steps. A hook is an event only: without HOOK_PRESENT the machine takes the same steps, but for the hook events of its
trace. -/
def Obligations.UnreadParametersAndHooks : Prop :=
  (∀ (s t : State) (c : BitVec 2) (p q : Nat), step s = .next t →
     step { s with par := { s.par with spiCpolCpha := c, spiPrescCmd := p, spiPrescStream := q } } =
       .next { t with par := { t.par with spiCpolCpha := c, spiPrescCmd := p, spiPrescStream := q } }) ∧
  (∀ s t : State, step s = .next t →
     step { s with par := { s.par with hookPresent := false }, trace := s.trace.filter fun e => !e.isHook } =
       .next { t with par := { t.par with hookPresent := false }, trace := t.trace.filter fun e => !e.isHook })

/-! ## Reset (spec/70_reset_and_hazards.md R280 to R282) -/

/-- R280, R282: every field of the launch state, whatever the parameters, the launch image and the program are; no agent but the
foreground has an enabled step there, GATE is 0 and IRQ is 0. -/
def Obligations.Reset : Prop :=
  (∀ (par : Params) (image : Memory) (prog : List Word),
     let s := State.launch par image prog
     s.res = 0 ∧ s.fg = ⟨0, 1, false, false, 0, 0⟩ ∧ s.irq = ⟨false, false⟩ ∧
     s.dma = ⟨false, .idle, 0, .byte, .single, false, 0, 0, 0, 0, 0, 0, 0, [], 0, 0, false⟩ ∧
     s.spi = ⟨.none, false, false, none, none, none, false⟩ ∧ s.line = ⟨false, false, false⟩ ∧ s.hd = .inactive ∧
     s.seq = ⟨.idle, ⟨0, 0, 0, 0⟩, 0⟩ ∧ s.mem = image ∧ s.trace = [] ∧ s.fault = none ∧ s.refused = none ∧
     s.prog = prog ∧ s.par = par) ∧
  (∀ (par : Params) (image : Memory) (prog : List Word),
     let s := State.launch par image prog
     s.fetchEnabled = false ∧ s.handoffEnabled = false ∧ s.shEnabled = false ∧ s.takeable = false ∧
     errorStep s = s ∧ s.hdEnabled = false ∧ s.gate = false ∧ s.irqLine = false)

/-- The launch state satisfies the invariant of the block, for every launch image in canonical form. -/
def Obligations.LaunchInvariant : Prop :=
  ∀ (par : Params) (image : Memory) (prog : List Word), Memory.wf image = true →
    Inv (State.launch par image prog)

/-! ## Memory (spec/20_memory.md) -/

/-- R72: what MemRead returns in each byte order, for every width; `MemWrite(a, n, v)` stores the bytes so that `MemRead(a, n)`
returns v, wherever the n bytes are distinct addresses; it keeps the canonical form and every byte outside them; no step switches
the byte order. -/
def Obligations.MemReadMemWrite : Prop :=
  (∀ (s : State) (a : Word) (n : Nat),
     (s.par.memOrder = .little →
       s.memRead a n =
         ((List.range n).map fun i => (Memory.read s.mem (a + BitVec.ofNat 32 i).toNat).toNat * 2 ^ (8 * i)).sum) ∧
     (s.par.memOrder = .big →
       s.memRead a n =
         ((List.range n).map fun i =>
           (Memory.read s.mem (a + BitVec.ofNat 32 i).toNat).toNat * 2 ^ (8 * (n - 1 - i))).sum)) ∧
  (∀ (s : State) (a : Word) (n v : Nat), n ≤ 2 ^ 32 → v < 2 ^ (8 * n) → Memory.wf s.mem = true →
     (s.memWrite a n v).memRead a n = v ∧
     Memory.wf (s.memWrite a n v).mem = true ∧
     ∀ x : Nat, (∀ i, i < n → x ≠ (a + BitVec.ofNat 32 i).toNat) →
       Memory.read (s.memWrite a n v).mem x = Memory.read s.mem x) ∧
  (∀ s t : State, step s = .next t → t.par.memOrder = s.par.memOrder)

/-- R231, R74, R77: MEM.WR16 faults on an odd address, then on an address RAM does not admit; otherwise it stores the two bytes
of the value at `a` and `a + 1` in the byte order, leaves every other byte and every other field alone, and ends. -/
def Obligations.MemWr16 : Prop :=
  ∀ (s : State) (v : Half) (a : Word), s.fg.k = 1 →
    (a.toNat % 2 = 1 → exec (.memWr16 v a) s = .fault .align) ∧
    (a.toNat % 2 = 0 → s.par.ramByte a = false ∨ s.par.ramByte (a + 1) = false →
      exec (.memWr16 v a) s = .fault .mem) ∧
    (a.toNat % 2 = 0 → s.par.ramByte a = true → s.par.ramByte (a + 1) = true →
      ∃ m : Memory, exec (.memWr16 v a) s = .next (({ s with mem := m } : State).done 2) ∧
        (Memory.wf s.mem = true →
          Memory.wf m = true ∧
          (s.par.memOrder = .little →
            Memory.read m a.toNat = v.extractLsb' 0 8 ∧ Memory.read m (a + 1).toNat = v.extractLsb' 8 8) ∧
          (s.par.memOrder = .big →
            Memory.read m a.toNat = v.extractLsb' 8 8 ∧ Memory.read m (a + 1).toNat = v.extractLsb' 0 8) ∧
          ∀ x : Nat, x ≠ a.toNat → x ≠ (a + 1).toNat → Memory.read m x = Memory.read s.mem x))

/-! ## Control and collaborators (spec/43_control.md) -/

/-- R224, R225: CTL.NOP only advances fg.pc; CTL.HALT sets fg.halted, emits Halt and does not advance fg.pc (that
it keeps fg.k is the model's choice, log 19). -/
def Obligations.NopAndHalt : Prop :=
  ∀ s : State, s.fg.k = 1 →
    exec .ctlNop s = .next (s.done 1) ∧
    exec .ctlHalt s = .next { s with fg := { s.fg with halted := true }, trace := s.trace ++ [.halt] }

/-- R228, R229, R230: CPU.IRQOFF and CPU.IRQON write irq.masked and nothing else; IRQ.ENABLE sets irq.SRCEN for DMA_IRQ_ID and has
no effect for any other id. -/
def Obligations.InterruptCommands : Prop :=
  ∀ s : State, s.fg.k = 1 →
    exec .cpuIrqOff s = .next (({ s with irq := { s.irq with masked := true } } : State).done 1) ∧
    exec .cpuIrqOn s = .next (({ s with irq := { s.irq with masked := false } } : State).done 1) ∧
    exec (.irqEnable s.par.dmaIrqId) s =
      .next (({ s with irq := { s.irq with srcEn := true } } : State).done 1) ∧
    ∀ id : Byte, id ≠ s.par.dmaIrqId → exec (.irqEnable id) s = .next (s.done 1)

/-- R222, R223: LINE.SET and LINE.CLEAR write the line they name in this step, and no other line, in every state. -/
def Obligations.LineCommands : Prop :=
  ∀ s : State, s.fg.k = 1 →
    exec (.lineSet .cs) s = .next (({ s with line := { s.line with cs := true } } : State).done 1) ∧
    exec (.lineSet .dc) s = .next (({ s with line := { s.line with dc := true } } : State).done 1) ∧
    exec (.lineSet .rst) s = .next (({ s with line := { s.line with rst := true } } : State).done 1) ∧
    exec (.lineClear .cs) s = .next (({ s with line := { s.line with cs := false } } : State).done 1) ∧
    exec (.lineClear .dc) s = .next (({ s with line := { s.line with dc := false } } : State).done 1) ∧
    exec (.lineClear .rst) s = .next (({ s with line := { s.line with rst := false } } : State).done 1)

/-- R226, R227: the two waits of the foreground: µ1 checks (WAITREADY its stream id) and goes on, µ2 holds until its condition is
true and then ends with no other effect. -/
def Obligations.WaitCommands : Prop :=
  ∀ (s : State) (stream : BitVec 3),
    (s.fg.k = 1 → stream ≠ s.par.streamId → exec (.ctlWaitReady stream) s = .fault .badStream) ∧
    (s.fg.k = 1 → stream = s.par.streamId → exec (.ctlWaitReady stream) s = .next s.goOn) ∧
    (s.fg.k = 2 → s.dma.ndt = 0 → exec (.ctlWaitReady stream) s = .next (s.done 1)) ∧
    (s.fg.k = 2 → s.dma.ndt ≠ 0 → exec (.ctlWaitReady stream) s = .next s) ∧
    (s.fg.k = 1 → exec .ctlWaitIdle s = .next s.goOn) ∧
    (s.fg.k = 2 → s.seq.state = .idle → s.hd = .inactive → exec .ctlWaitIdle s = .next (s.done 1)) ∧
    (s.fg.k = 2 → s.seq.state ≠ .idle ∨ s.hd ≠ .inactive → exec .ctlWaitIdle s = .next s)

/-- R220: a micro-step writes RES only together with the event Result(v), v the new RES, and only DMA.ISREADY, DMA.STATUS,
SPI.XCHG and SEQ.STATE do. -/
def Obligations.ResultRule : Prop :=
  ∀ (i : Instr) (s t : State), exec i s = .next t →
    (t.trace = s.trace ++ [.result t.res] ∧
      ((∃ stream, i = .dmaIsReady stream) ∨ (∃ stream, i = .dmaStatus stream) ∨ (∃ b, i = .spiXchg b) ∨
        i = .seqState)) ∨
    (t.res = s.res ∧ ∃ es : List Event, t.trace = s.trace ++ es ∧ ∀ v : Word, Event.result v ∉ es)

/-! ## The DMA stream (spec/40_dma.md) -/

/-- R93: each command with a stream id faults F_BAD_STREAM for an id other than STREAM_ID, before its other checks. -/
def Obligations.BadStream : Prop :=
  ∀ (s : State) (stream : BitVec 3), s.fg.k = 1 → stream ≠ s.par.streamId →
    (∀ (c : Ctrl) (src dst : Word) (n : Half), c.wf = true →
      exec (.dmaConfig stream c src dst n) s = .fault .badStream) ∧
    exec (.dmaStart stream) s = .fault .badStream ∧
    exec (.dmaDisable stream) s = .fault .badStream ∧
    exec (.dmaIsReady stream) s = .fault .badStream ∧
    (∀ m : BitVec 5, exec (.dmaClear stream m) s = .fault .badStream) ∧
    exec (.dmaStatus stream) s = .fault .badStream ∧
    exec (.ctlWaitReady stream) s = .fault .badStream

/-- R190: while a fill is under way each standalone stream or link command faults F_FG_STREAMING, before its other checks. -/
def Obligations.ForegroundExclusion : Prop :=
  ∀ s : State, s.fg.k = 1 → s.fillUnderWay →
    (∀ (c : Ctrl) (src dst : Word) (n : Half), c.wf = true →
      exec (.dmaConfig s.par.streamId c src dst n) s = .fault .fgStreaming) ∧
    exec (.dmaStart s.par.streamId) s = .fault .fgStreaming ∧
    exec (.dmaDisable s.par.streamId) s = .fault .fgStreaming ∧
    (∀ m : BitVec 5, exec (.dmaClear s.par.streamId m) s = .fault .fgStreaming) ∧
    (∀ p : LinkMode, exec (.spiConfig p) s = .fault .fgStreaming) ∧
    exec .spiEnable s = .fault .fgStreaming ∧
    exec .spiDisable s = .fault .fgStreaming ∧
    (∀ b : Byte, exec (.spiXchg b) s = .fault .fgStreaming) ∧
    exec .spiDmaReq s = .fault .fgStreaming

/-- R120: DMA.CONFIG's checks after the stream id and the exclusion, in order, and the full overwrite of the stream when all
pass. A control word with a reserved ESIZE or BURST code, which no packet decodes to, is the fault of decode (log 13). -/
def Obligations.DmaConfig : Prop :=
  (∀ (s : State) (c : Ctrl) (e : ElemSize) (b : Burst) (src dst : Word) (n : Half), s.fg.k = 1 →
     ¬ s.fillUnderWay →
     (c.esize = 0 ∧ e = .byte ∨ c.esize = 1 ∧ e = .half ∨ c.esize = 2 ∧ e = .word) →
     (c.burst = 0 ∧ b = .single ∨ c.burst = 1 ∧ b = .four) →
     (s.dma.en = true → exec (.dmaConfig s.par.streamId c src dst n) s = .fault .dmaBusy) ∧
     (s.dma.en = false → dst ≠ s.par.spiDrAddr → exec (.dmaConfig s.par.streamId c src dst n) s = .refused .dst) ∧
     (s.dma.en = false → dst = s.par.spiDrAddr → src.toNat % e.bytes ≠ 0 →
       exec (.dmaConfig s.par.streamId c src dst n) s = .fault .align) ∧
     (s.dma.en = false → dst = s.par.spiDrAddr → src.toNat % e.bytes = 0 → b = .four →
       c.fen = false ∨ s.par.burstOk.admits src n e = false →
       exec (.dmaConfig s.par.streamId c src dst n) s = .fault .burst) ∧
     (s.dma.en = false → dst = s.par.spiDrAddr → src.toNat % e.bytes = 0 →
       b = .single ∨ (c.fen = true ∧ s.par.burstOk.admits src n e = true) →
       exec (.dmaConfig s.par.streamId c src dst n) s =
         .next
           (({ s with
               dma :=
                 { en := false, state := .armed, chsel := c.chsel, esize := e, burst := b, fen := c.fen, fth := c.fth,
                   ie := c.ie, src := src, dst := dst, ndtCfg := n, ndt := n, sr := 0, fifo := [], fetched := 0,
                   handed := 0, req := false } } : State).done 5))) ∧
  (∀ (s : State) (stream : BitVec 3) (c : Ctrl) (src dst : Word) (n : Half), s.fg.k = 1 → c.wf = false →
     exec (.dmaConfig stream c src dst n) s = .fault .reserved)

/-- R121: DMA.START's checks after the stream id and the exclusion, in order, and its effect. -/
def Obligations.DmaStart : Prop :=
  ∀ s : State, s.fg.k = 1 → ¬ s.fillUnderWay →
    (s.dma.state = .running → exec (.dmaStart s.par.streamId) s = .fault .dmaBusy) ∧
    (s.dma.state ≠ .running → s.dma.state ≠ .armed → exec (.dmaStart s.par.streamId) s = .fault .dmaNotArmed) ∧
    (s.dma.state = .armed → s.dma.ndt = 0 → exec (.dmaStart s.par.streamId) s = .fault .zeroCount) ∧
    (s.dma.state = .armed → s.dma.ndt ≠ 0 →
      exec (.dmaStart s.par.streamId) s =
        .next (({ s with dma := { s.dma with en := true, state := .running } } : State).done 1))

/-- R122, R123, R200: DMA.ISREADY, DMA.STATUS and SEQ.STATE are legal in every state; each writes its word to RES, emits it, and
changes nothing else. -/
def Obligations.StatusCommands : Prop :=
  ∀ s : State, s.fg.k = 1 →
    exec (.dmaIsReady s.par.streamId) s =
      .next (({ s with res := s.readyWord, trace := s.trace ++ [.result s.readyWord] } : State).done 1) ∧
    exec (.dmaStatus s.par.streamId) s =
      .next (({ s with res := s.statusWord, trace := s.trace ++ [.result s.statusWord] } : State).done 1) ∧
    exec .seqState s =
      .next (({ s with res := s.blockWord, trace := s.trace ++ [.result s.blockWord] } : State).done 1)

/-- R99: the layout of the result words of DMA.ISREADY, DMA.STATUS and SEQ.STATE, every bit of them. -/
def Obligations.ResultWords : Prop :=
  ∀ s : State,
    s.readyWord.getLsbD 0 = decide (s.dma.ndt = 0) ∧ s.readyWord.extractLsb' 1 31 = 0 ∧
    s.statusWord.extractLsb' 0 5 = s.dma.sr ∧ s.statusWord.extractLsb' 5 3 = 0 ∧
    s.statusWord.getLsbD 8 = s.dma.en ∧
    (s.statusWord.extractLsb' 9 3).toNat =
      (match s.dma.state with | .idle => 0 | .armed => 1 | .running => 2 | .complete => 3 | .aborted => 4) ∧
    s.statusWord.extractLsb' 12 4 = 0 ∧ s.statusWord.extractLsb' 16 16 = s.dma.ndt ∧
    (s.blockWord.extractLsb' 0 2).toNat =
      (match s.seq.state with | .idle => 0 | .windowSet => 1 | .streamingArmed => 2 | .streaming => 3) ∧
    s.blockWord.extractLsb' 2 2 = 0 ∧
    (s.blockWord.extractLsb' 4 2).toNat =
      (match s.spi.profile with | .none => 0 | .command => 1 | .streaming => 2) ∧
    s.blockWord.extractLsb' 6 2 = 0 ∧
    s.blockWord.getLsbD 8 = s.spi.spe ∧
    s.blockWord.getLsbD 9 = (s.spi.txBuf.isSome || s.spi.shift.isSome) ∧
    s.blockWord.getLsbD 10 = s.spi.txDmaEn ∧ s.blockWord.getLsbD 11 = s.spi.rxBuf.isSome ∧
    s.blockWord.getLsbD 12 = s.line.cs ∧ s.blockWord.getLsbD 13 = s.line.dc ∧ s.blockWord.getLsbD 14 = s.line.rst ∧
    s.blockWord.getLsbD 15 = s.irq.masked ∧ s.blockWord.getLsbD 16 = s.irq.srcEn ∧
    s.blockWord.extractLsb' 17 15 = 0

/-- R124: DMA.CLEAR clears the flags its mask selects and nothing else; R28's bit order is the mask's. R125: DMA.DISABLE refuses
while Running; otherwise µ1 takes Armed to Idle and keeps every other state of the stream, its descriptor and its counter, and µ2
waits for EN = 0. -/
def Obligations.DmaClearAndDisable : Prop :=
  (∀ (s : State) (mask : BitVec 5), s.fg.k = 1 → ¬ s.fillUnderWay →
     exec (.dmaClear s.par.streamId mask) s =
       .next (({ s with dma := { s.dma with sr := s.dma.sr &&& ~~~mask } } : State).done 1)) ∧
  (∀ s : State,
     (s.fg.k = 1 → ¬ s.fillUnderWay → s.dma.state = .running →
       exec (.dmaDisable s.par.streamId) s = .refused .cancel) ∧
     (s.fg.k = 1 → ¬ s.fillUnderWay → s.dma.state = .armed →
       exec (.dmaDisable s.par.streamId) s =
         .next (({ s with dma := { s.dma with en := false, state := .idle } } : State).goOn)) ∧
     (s.fg.k = 1 → ¬ s.fillUnderWay → s.dma.state ≠ .armed → s.dma.state ≠ .running →
       exec (.dmaDisable s.par.streamId) s =
         .next (({ s with dma := { s.dma with en := false } } : State).goOn)) ∧
     (s.fg.k = 2 → s.dma.en = false → exec (.dmaDisable s.par.streamId) s = .next (s.done 1)) ∧
     (s.fg.k = 2 → s.dma.en = true → exec (.dmaDisable s.par.streamId) s = .next s))

/-- R129, R126, R127: the DE fetch step: when it is enabled, the element it reads and where, or the transfer error of an
unadmitted read; and that it does nothing when it is not enabled. -/
def Obligations.FetchStep : Prop :=
  ∀ s : State,
    let a : Word := s.dma.src + BitVec.ofNat 32 (s.dma.fetched.toNat * s.dma.esize.bytes)
    let enabled : Prop :=
      s.dma.state = .running ∧ s.dma.fetched.toNat < s.dma.ndtCfg.toNat ∧
      s.dma.fetched.toNat - s.dma.handed.toNat < (if s.dma.fen then s.par.fifoDepth else 1)
    (enabled → s.par.admits a s.dma.esize.bytes = true →
      fetchStep s =
        { s with
          dma :=
            { s.dma with
              fifo := s.dma.fifo ++ [BitVec.ofNat 32 (s.memRead a s.dma.esize.bytes)]
              fetched := s.dma.fetched + 1 } }) ∧
    (enabled → s.par.admits a s.dma.esize.bytes = false →
      fetchStep s =
        { s with dma := { s.dma with sr := s.dma.sr ||| 0b00100, en := false, state := .aborted, fifo := [] } }) ∧
    (¬ enabled → fetchStep s = s)

/-- R130 to R132: the DE handoff step: when it is enabled, the frame, the counters, the half-transfer and completion flags, or
F_WIDTH; and that it does nothing when it is not enabled (an empty FIFO included). -/
def Obligations.HandoffStep : Prop :=
  (∀ s : State, s.dma.fifo = [] → handoffStep s = .next s) ∧
  (∀ (s : State) (v : Word) (vs : List Word), s.dma.fifo = v :: vs →
     let enabled : Prop := s.dma.state = .running ∧ s.dma.req = true ∧ s.spi.txBuf = none
     let n : Half := s.dma.ndt - 1
     let half : BitVec 5 := if n.toNat = s.dma.ndtCfg.toNat / 2 then 0b00010 else 0
     (enabled → s.spi.profile ≠ .streaming ∨ s.dma.esize ≠ .half → handoffStep s = .fault .width) ∧
     (enabled → s.spi.profile = .streaming → s.dma.esize = .half → n ≠ 0 →
       handoffStep s =
         .next
           { s with
             spi := { s.spi with txBuf := some (.f16 (v.setWidth 16)) }
             dma :=
               { s.dma with
                 fifo := vs, req := false, handed := s.dma.handed + 1, ndt := n, sr := s.dma.sr ||| half } }) ∧
     (enabled → s.spi.profile = .streaming → s.dma.esize = .half → n = 0 →
       handoffStep s =
         .next
           { s with
             spi := { s.spi with txBuf := some (.f16 (v.setWidth 16)) }
             dma :=
               { s.dma with
                 fifo := vs, req := false, handed := s.dma.handed + 1, ndt := n, sr := s.dma.sr ||| half ||| 0b00001,
                 en := false, state := .complete } }) ∧
     (¬ enabled → handoffStep s = .next s))

/-- R133: the ENV error step, for every draw: it sets one of TE, DME and FE, and TE or the second draw stops the stream with NDT
kept; outside Running there is none. -/
def Obligations.ErrorStep : Prop :=
  ∀ s : State,
    (s.dma.state ≠ .running → errorStep s = s) ∧
    (s.dma.state = .running →
      ∃ (k : FlagKind) (stop : Bool) (inp : Inputs), (k = .te ∨ k = .dme ∨ k = .fe) ∧
        errorStep s =
          (if k = .te ∨ stop = true then
            { s with
              inp := inp
              dma := { s.dma with sr := s.dma.sr ||| flagBit k, en := false, state := .aborted, fifo := [] } }
          else { s with inp := inp, dma := { s.dma with sr := s.dma.sr ||| flagBit k } }))

/-- R28: no step of the foreground, the handler, the entry or the shifter sets a flag of the stream. -/
def Obligations.SoftwareSetsNoFlag : Prop :=
  ∀ (turn : Turn) (s t : State) (k : FlagKind), turn = .fg ∨ turn = .hd ∨ turn = .ie ∨ turn = .sh →
    turnStep turn s = .next t → hasFlag t.dma.sr k = true → hasFlag s.dma.sr k = true

/-- R134, R129 to R132: a running stream whose elements are all admitted and whose requests are delivered moves exactly NDT_CFG
elements, each as one frame with the value MemRead gives, and ends Complete with HT and TC set. The schedule is one fetch, one
handoff, one load and one emit per element. -/
def Obligations.StreamCompletes : Prop :=
  ∀ (s : State) (n : Nat), s.fault = none → s.refused = none → s.dma.state = .running →
    n = s.dma.ndtCfg.toNat → n ≠ 0 → s.dma.ndt = s.dma.ndtCfg → s.dma.fetched = 0 → s.dma.handed = 0 →
    s.dma.fifo = [] → s.dma.req = true → s.dma.esize = .half → s.dma.chsel = s.par.spiTxChannel →
    1 ≤ s.par.fifoDepth → s.spi.profile = .streaming → s.spi.spe = true → s.spi.txDmaEn = true →
    s.spi.txBuf = none → s.spi.shift = none → s.spi.gPrev = true →
    (∀ i, i < n → s.par.admits (s.dma.src + BitVec.ofNat 32 (i * 2)) 2 = true) →
    ∃ (inp : Inputs) (req : Bool),
      runSteps (4 * n) (s.scheduled (List.replicate n streamTurns).flatten) =
        .next
          { s with
            inp := inp
            dma :=
              { s.dma with
                en := false, state := .complete, ndt := 0, sr := s.dma.sr ||| 0b00011, fetched := BitVec.ofNat 17 n,
                handed := BitVec.ofNat 17 n, req := req }
            trace :=
              s.trace ++
                (List.range n).map fun i =>
                  .frame s.line.cs s.line.dc
                    (.f16 (BitVec.ofNat 16 (s.memRead (s.dma.src + BitVec.ofNat 32 (i * 2)) 2))) true }

/-! ## The link and the mux (spec/41_spi.md) -/

/-- R160, R161, R167: SPI.CONFIG's checks after the exclusion, in order, and the one profile write: PROFILE, TXDMAEN and the
receive buffer, nothing else. -/
def Obligations.SpiConfig : Prop :=
  ∀ s : State, s.fg.k = 1 → ¬ s.fillUnderWay →
    (∀ p : LinkMode,
      (s.spi.spe = true → exec (.spiConfig p) s = .fault .spiEnabled) ∧
      (s.spi.spe = false → s.spi.txBuf ≠ none ∨ s.spi.shift ≠ none → exec (.spiConfig p) s = .fault .spiBusy)) ∧
    (s.spi.spe = false → s.spi.txBuf = none → s.spi.shift = none →
      exec (.spiConfig .command) s =
        .next
          (({ s with spi := { s.spi with profile := .command, txDmaEn := false, rxBuf := none } } : State).done 1) ∧
      exec (.spiConfig .streaming) s =
        .next
          (({ s with spi := { s.spi with profile := .streaming, txDmaEn := false, rxBuf := none } } : State).done 1))

/-- R162, R164, R166: SPI.ENABLE faults in profile None; otherwise µ1 sets SPE and µ2's read-back ends the command. SPI.DMAREQ
faults outside StreamingMode; otherwise it sets TXDMAEN and nothing else. -/
def Obligations.SpiEnableAndRequest : Prop :=
  (∀ s : State,
     (s.fg.k = 1 → ¬ s.fillUnderWay → s.spi.profile = .none → exec .spiEnable s = .fault .spiUnconfigured) ∧
     (s.fg.k = 1 → ¬ s.fillUnderWay → s.spi.profile ≠ .none →
       exec .spiEnable s = .next (({ s with spi := { s.spi with spe := true } } : State).goOn)) ∧
     (s.fg.k = 2 → s.spi.spe = true → exec .spiEnable s = .next (s.done 1)) ∧
     (s.fg.k = 2 → s.spi.spe = false → exec .spiEnable s = .next s)) ∧
  (∀ s : State, s.fg.k = 1 → ¬ s.fillUnderWay →
     (s.spi.profile ≠ .streaming → exec .spiDmaReq s = .fault .spiMode) ∧
     (s.spi.profile = .streaming →
       exec .spiDmaReq s = .next (({ s with spi := { s.spi with txDmaEn := true } } : State).done 1)))

/-- R163, R167: SPI.DISABLE faults while the stream is Running; otherwise it waits for BSY = 0, clears SPE, and waits for the
read-back. -/
def Obligations.SpiDisable : Prop :=
  ∀ s : State,
    (s.fg.k = 1 → ¬ s.fillUnderWay → s.dma.state = .running → exec .spiDisable s = .fault .spiBusy) ∧
    (s.fg.k = 1 → ¬ s.fillUnderWay → s.dma.state ≠ .running → exec .spiDisable s = .next s.goOn) ∧
    (s.fg.k = 2 → s.spi.txBuf = none → s.spi.shift = none → exec .spiDisable s = .next s.goOn) ∧
    (s.fg.k = 2 → s.spi.txBuf ≠ none ∨ s.spi.shift ≠ none → exec .spiDisable s = .next s) ∧
    (s.fg.k = 3 → exec .spiDisable s = .next (({ s with spi := { s.spi with spe := false } } : State).goOn)) ∧
    (s.fg.k = 4 → s.spi.spe = false → exec .spiDisable s = .next (s.done 1)) ∧
    (s.fg.k = 4 → s.spi.spe = true → exec .spiDisable s = .next s)

/-- R165: SPI.XCHG's checks after the exclusion, in order; µ1 writes the frame, µ2 waits for a received byte, µ3 takes it from the
receive buffer into RES and emits it. The byte itself is a draw: the statement holds for every one. -/
def Obligations.SpiXchg : Prop :=
  ∀ (s : State) (b : Byte),
    (s.fg.k = 1 → ¬ s.fillUnderWay → s.spi.profile ≠ .command → exec (.spiXchg b) s = .fault .spiMode) ∧
    (s.fg.k = 1 → ¬ s.fillUnderWay → s.spi.profile = .command → s.spi.spe = false →
      exec (.spiXchg b) s = .fault .spiDisabled) ∧
    (s.fg.k = 1 → ¬ s.fillUnderWay → s.spi.profile = .command → s.spi.spe = true → s.spi.txBuf ≠ none →
      exec (.spiXchg b) s = .fault .spiTxFull) ∧
    (s.fg.k = 1 → ¬ s.fillUnderWay → s.spi.profile = .command → s.spi.spe = true → s.spi.txBuf = none →
      exec (.spiXchg b) s = .next (({ s with spi := { s.spi with txBuf := some (.f8 b) } } : State).goOn)) ∧
    (s.fg.k = 2 → s.spi.rxBuf ≠ none → exec (.spiXchg b) s = .next s.goOn) ∧
    (s.fg.k = 2 → s.spi.rxBuf = none → exec (.spiXchg b) s = .next s) ∧
    (∀ v : Byte, s.fg.k = 3 → s.spi.rxBuf = some v →
      exec (.spiXchg b) s =
        .next
          (({ s with
              res := v.setWidth 32
              spi := { s.spi with rxBuf := none }
              trace := s.trace ++ [.result (v.setWidth 32)] } : State).done 1))

/-- R168, R135, R36: the end of every step: GPREV takes the gate's value; a rising gate delivers one pulse, which is lost when
CHSEL does not select the link, latched when the stream runs, and kept or lost by a draw otherwise (a latched request stays).
Nothing else changes but the draw's input. -/
def Obligations.RequestEdge : Prop :=
  ∀ (s : State) (g : Bool),
    g = (s.spi.spe && s.spi.txDmaEn && s.spi.txBuf.isNone && decide (s.spi.profile = .streaming)) →
    (g = false ∨ s.spi.gPrev = true ∨ s.dma.chsel ≠ s.par.spiTxChannel →
      s.endOfStep = { s with spi := { s.spi with gPrev := g } }) ∧
    (g = true → s.spi.gPrev = false → s.dma.chsel = s.par.spiTxChannel → s.dma.state = .running →
      s.endOfStep = { s with spi := { s.spi with gPrev := g }, dma := { s.dma with req := true } }) ∧
    (g = true → s.spi.gPrev = false → s.dma.chsel = s.par.spiTxChannel → s.dma.state ≠ .running →
      ∃ (kept : Bool) (inp : Inputs),
        s.endOfStep =
          { s with
            spi := { s.spi with gPrev := g }, dma := { s.dma with req := s.dma.req || kept }, inp := inp })

/-- R170, R171, R100, R223: the two steps of the shifter: the load samples CS and DC, the emit records the frame with the sampled
lines and whether they are unchanged, and receives a byte in CommandMode only; without SPE, or with nothing to send, it holds. -/
def Obligations.ShifterSteps : Prop :=
  ∀ s : State,
    (s.spi.spe = false ∨ (s.spi.shift = none ∧ s.spi.txBuf = none) → shifterStep s = s) ∧
    (∀ f : Frame, s.spi.spe = true → s.spi.shift = none → s.spi.txBuf = some f →
      shifterStep s =
        { s with spi := { s.spi with txBuf := none, shift := some ⟨f, s.line.cs, s.line.dc⟩ } }) ∧
    (∀ x : Shifting, s.spi.spe = true → s.spi.shift = some x → s.spi.profile ≠ .command →
      shifterStep s =
        { s with
          trace :=
            s.trace ++ [.frame x.cs0 x.dc0 x.frame (decide (s.line.cs = x.cs0 ∧ s.line.dc = x.dc0))]
          spi := { s.spi with shift := none } }) ∧
    (∀ x : Shifting, s.spi.spe = true → s.spi.shift = some x → s.spi.profile = .command →
      ∃ (b : Byte) (inp : Inputs),
        shifterStep s =
          { s with
            trace :=
              s.trace ++ [.frame x.cs0 x.dc0 x.frame (decide (s.line.cs = x.cs0 ∧ s.line.dc = x.dc0))]
            spi := { s.spi with shift := none, rxBuf := some b }
            inp := inp })

/-! ## The panel sequencer (spec/42_sequencer.md) -/

/-- R191, R192, R197: which windows are valid, and the bounds of a valid window's pixel count; every valid size gives a valid window
centred on the panel with w * h pixels, the odd pixel of margin on the high side. -/
def Obligations.WindowGeometry : Prop :=
  (∀ w : Window,
     (w.valid = true ↔
       w.xs.toNat ≤ w.xe.toNat ∧ w.xe.toNat < 240 ∧ w.ys.toNat ≤ w.ye.toNat ∧ w.ye.toNat < 320) ∧
     (w.valid = true →
       w.pixelCount = (w.xe.toNat - w.xs.toNat + 1) * (w.ye.toNat - w.ys.toNat + 1) ∧
       1 ≤ w.pixelCount ∧ w.pixelCount ≤ 76800)) ∧
  (∀ w h : Half,
     (centerSizeValid w h = true ↔ 1 ≤ w.toNat ∧ w.toNat ≤ 240 ∧ 1 ≤ h.toNat ∧ h.toNat ≤ 320) ∧
     (centerSizeValid w h = true →
       (centeredWindow w h).valid = true ∧
       (centeredWindow w h).pixelCount = w.toNat * h.toNat ∧
       (centeredWindow w h).xs.toNat = (240 - w.toNat) / 2 ∧
       (centeredWindow w h).xe.toNat = (240 - w.toNat) / 2 + w.toNat - 1 ∧
       (centeredWindow w h).ys.toNat = (320 - h.toNat) / 2 ∧
       (centeredWindow w h).ye.toNat = (320 - h.toNat) / 2 + h.toNat - 1))

/-- R193, R41, R37: µ1 of SEQ.WINDOW: its checks in order (a faulting one has done nothing), and its effect when they pass. -/
def Obligations.SeqWindow : Prop :=
  (∀ (s : State) (w : Window), s.fg.k = 1 →
     (s.fillUnderWay → exec (.seqWindow w) s = .fault .seqState) ∧
     (¬ s.fillUnderWay → w.valid = false → exec (.seqWindow w) s = .fault .window) ∧
     (¬ s.fillUnderWay → w.valid = true → 65535 < w.pixelCount → exec (.seqWindow w) s = .fault .count) ∧
     (¬ s.fillUnderWay → w.valid = true → w.pixelCount ≤ 65535 → s.spi.profile ≠ .command →
       exec (.seqWindow w) s = .fault .spiMode) ∧
     (¬ s.fillUnderWay → w.valid = true → w.pixelCount ≤ 65535 → s.spi.profile = .command → s.spi.spe = false →
       exec (.seqWindow w) s = .fault .spiDisabled) ∧
     (¬ s.fillUnderWay → w.valid = true → w.pixelCount ≤ 65535 → s.spi.profile = .command → s.spi.spe = true →
       s.spi.txBuf ≠ none → exec (.seqWindow w) s = .fault .spiTxFull)) ∧
  (∀ (s : State) (w : Window), s.fg.k = 1 → ¬ s.fillUnderWay → w.valid = true → w.pixelCount ≤ 65535 → s.linkReady →
     exec (.seqWindow w) s =
       .next
         (({ s with
             seq := { s.seq with win := w, pixCnt := BitVec.ofNat 16 w.pixelCount }
             line := { s.line with cs := true } } : State).goOn))

/-- R193, R194, R101, R167: SEQ.WINDOW run to its end, with the shifter sending each byte at once: exactly the eleven frames in
their order, the window and its count set, the sequencer in WindowSet, CS = 1 and DC = 0, every received byte discarded, RES,
memory and the stream untouched. -/
def Obligations.SeqWindowRuns : Prop :=
  ∀ (s : State) (w : Window), s.fgFree → s.fg.k = 1 → s.fetch = .command (.seqWindow w) → ¬ s.fillUnderWay →
    w.valid = true → w.pixelCount ≤ 65535 → s.linkReady → s.linkQuiet →
    ∃ inp : Inputs,
      runSteps windowTurns.length (s.scheduled windowTurns) =
        .next
          (({ s with
              inp := inp
              seq := { state := .windowSet, win := w, pixCnt := BitVec.ofNat 16 w.pixelCount }
              line := { s.line with cs := true, dc := false }
              trace := s.trace ++ windowFrames w } : State).done 3)

/-- R195: the checks of SEQ.FILL at µ1, in order, and µ1's effect when they pass: the mask is saved and set. -/
def Obligations.SeqFillBegins : Prop :=
  ∀ (s : State) (buf : Word), s.fg.k = 1 →
    (s.seq.state ≠ .windowSet → exec (.seqFill buf) s = .fault .seqState) ∧
    (s.seq.state = .windowSet → s.dma.en = true ∨ s.dma.ndt ≠ 0 → exec (.seqFill buf) s = .fault .notReady) ∧
    (s.seq.state = .windowSet → s.dma.en = false → s.dma.ndt = 0 → buf.toNat % 2 = 1 →
      exec (.seqFill buf) s = .fault .align) ∧
    (s.seq.state = .windowSet → s.dma.en = false → s.dma.ndt = 0 → buf.toNat % 2 = 0 →
      s.par.burstOk.admits buf s.seq.pixCnt .half = false → exec (.seqFill buf) s = .fault .burst) ∧
    (s.seq.state = .windowSet → s.fillReady buf s.seq.pixCnt →
      exec (.seqFill buf) s =
        .next
          (({ s with
              fg := { s.fg with savedMask := s.irq.masked }, irq := { s.irq with masked := true } } : State).goOn))

/-- R195, R201, R168: SEQ.FILL run to its end by the foreground alone, from an idle link: the pipeline descriptor, the link in
StreamingMode and enabled with its DMA request on, CS and DC set, the stream Running with its first request latched at µ13, the
sequencer Streaming, the mask restored. -/
def Obligations.SeqFillRuns : Prop :=
  ∀ (s : State) (buf : Word), s.fgFree → s.fg.k = 1 → s.fetch = .command (.seqFill buf) → s.seq.state = .windowSet →
    s.fillReady buf s.seq.pixCnt → s.dma.state ≠ .running → s.bsy = false → s.spi.gPrev = s.gate →
    runSteps 14 (s.scheduled (List.replicate 14 .fg)) =
      .next
        (({ s with
            fg := { s.fg with savedMask := s.irq.masked }
            dma :=
              { en := true, state := .running, chsel := s.par.spiTxChannel, esize := .half, burst := .four,
                fen := true, fth := s.par.pipeFth, ie := 0b11101, src := buf, dst := s.par.spiDrAddr,
                ndtCfg := s.seq.pixCnt, ndt := s.seq.pixCnt, sr := 0, fifo := [], fetched := 0, handed := 0,
                req := true }
            spi := { s.spi with profile := .streaming, spe := true, txDmaEn := true, rxBuf := none, gPrev := true }
            line := { s.line with cs := true, dc := true }
            seq := { s.seq with state := .streaming } } : State).done 2)

/-- R196, R198, R41: µ1 of SEQ.FILLWIN, and of SEQ.FILLCTR with the window of R197: the checks in order (a faulting one has
done nothing), and the effect when they pass. -/
def Obligations.FillWindow : Prop :=
  (∀ (s : State) (w : Window) (buf : Word) (i : Instr), s.fg.k = 1 →
     (∀ wd ht : Half,
       (s.seq.state ≠ .idle → exec (.seqFillCtr wd ht buf) s = .fault .seqState) ∧
       (s.seq.state = .idle → centerSizeValid wd ht = false → exec (.seqFillCtr wd ht buf) s = .fault .window)) ∧
     (s.seq.state ≠ .idle → exec (.seqFillWin w buf) s = .fault .seqState) ∧
     (s.seq.state = .idle → w.valid = false → exec (.seqFillWin w buf) s = .fault .window) ∧
     ((i = .seqFillWin w buf ∨
         ∃ wd ht : Half, i = .seqFillCtr wd ht buf ∧ centerSizeValid wd ht = true ∧ w = centeredWindow wd ht) →
       s.seq.state = .idle → w.valid = true →
       (65535 < w.pixelCount → exec i s = .fault .count) ∧
       (w.pixelCount ≤ 65535 → s.spi.profile ≠ .command → exec i s = .fault .spiMode) ∧
       (w.pixelCount ≤ 65535 → s.spi.profile = .command → s.spi.spe = false → exec i s = .fault .spiDisabled) ∧
       (w.pixelCount ≤ 65535 → s.spi.profile = .command → s.spi.spe = true → s.spi.txBuf ≠ none →
         exec i s = .fault .spiTxFull) ∧
       (w.pixelCount ≤ 65535 → s.linkReady → s.dma.en = true ∨ s.dma.ndt ≠ 0 → exec i s = .fault .notReady) ∧
       (w.pixelCount ≤ 65535 → s.linkReady → s.dma.en = false → s.dma.ndt = 0 → buf.toNat % 2 = 1 →
         exec i s = .fault .align) ∧
       (w.pixelCount ≤ 65535 → s.linkReady → s.dma.en = false → s.dma.ndt = 0 → buf.toNat % 2 = 0 →
         s.par.burstOk.admits buf (BitVec.ofNat 16 w.pixelCount) .half = false → exec i s = .fault .burst))) ∧
  (∀ (s : State) (w : Window) (buf : Word) (i : Instr), s.fg.k = 1 →
     (i = .seqFillWin w buf ∨
       ∃ wd ht : Half, i = .seqFillCtr wd ht buf ∧ centerSizeValid wd ht = true ∧ w = centeredWindow wd ht) →
     s.seq.state = .idle → w.valid = true → w.pixelCount ≤ 65535 → s.linkReady →
     s.fillReady buf (BitVec.ofNat 16 w.pixelCount) →
     exec i s =
       .next
         (({ s with
             seq := { s.seq with win := w, pixCnt := BitVec.ofNat 16 w.pixelCount }
             line := { s.line with cs := true } } : State).goOn))

/-- R198: for a valid size SEQ.FILLCTR does, micro-step by micro-step, what SEQ.FILLWIN does with the window of R197; at its last
micro-step only the packet's length differs. -/
def Obligations.FillCtrIsFillWin : Prop :=
  ∀ (s : State) (w h : Half) (buf : Word), centerSizeValid w h = true →
    (s.fg.k ≠ 53 → exec (.seqFillCtr w h buf) s = exec (.seqFillWin (centeredWindow w h) buf) s) ∧
    (s.fg.k = 53 →
      exec (.seqFillCtr w h buf) s = .next (({ s with irq := { s.irq with masked := s.fg.savedMask } } : State).done 3) ∧
      exec (.seqFillWin (centeredWindow w h) buf) s =
        .next (({ s with irq := { s.irq with masked := s.fg.savedMask } } : State).done 4))

/-- R196, R194, R195, R201: SEQ.FILLWIN and SEQ.FILLCTR run to their end, the shifter sending each window byte at once and no
other agent stepping: the eleven frames, then the fill of SEQ.FILL with the window's pixel count as the descriptor's. -/
def Obligations.FillWindowRuns : Prop :=
  ∀ (s : State) (w : Window) (buf : Word) (i : Instr) (len : Nat), s.fgFree → s.fg.k = 1 → s.fetch = .command i →
    ((i = .seqFillWin w buf ∧ len = 4) ∨
      ∃ wd ht : Half,
        i = .seqFillCtr wd ht buf ∧ centerSizeValid wd ht = true ∧ w = centeredWindow wd ht ∧ len = 3) →
    s.seq.state = .idle → w.valid = true → w.pixelCount ≤ 65535 → s.linkReady → s.linkQuiet →
    s.fillReady buf (BitVec.ofNat 16 w.pixelCount) → s.dma.state ≠ .running →
    ∃ inp : Inputs,
      runSteps (windowTurns.length + 13) (s.scheduled (windowTurns ++ List.replicate 13 .fg)) =
        .next
          (({ s with
              inp := inp
              fg := { s.fg with savedMask := s.irq.masked }
              dma :=
                { en := true, state := .running, chsel := s.par.spiTxChannel, esize := .half, burst := .four,
                  fen := true, fth := s.par.pipeFth, ie := 0b11101, src := buf, dst := s.par.spiDrAddr,
                  ndtCfg := BitVec.ofNat 16 w.pixelCount, ndt := BitVec.ofNat 16 w.pixelCount, sr := 0, fifo := [],
                  fetched := 0, handed := 0, req := true }
              spi := { s.spi with profile := .streaming, spe := true, txDmaEn := true, rxBuf := none, gPrev := true }
              line := { s.line with cs := true, dc := true }
              seq := { state := .streaming, win := w, pixCnt := BitVec.ofNat 16 w.pixelCount }
              trace := s.trace ++ windowFrames w } : State).done len)

/-- R202, R40: the sequencer's transitions and who makes each: FG from Idle or WindowSet to WindowSet, from WindowSet to
StreamingArmed and from StreamingArmed to Streaming, the teardown (HD, or FG inside SEQ.HANDSHAKE) from Streaming to Idle; no
other. For states of the block's invariant. That H9 is SEQ.HANDSHAKE's micro-step 11 is the model's numbering (log 12). -/
def Obligations.SequencerTransitions : Prop :=
  ∀ s t : State, Inv s → step s = .next t → t.seq.state ≠ s.seq.state →
    (s.takeTurn.1 = .fg ∧ s.seq.state = .idle ∧ t.seq.state = .windowSet) ∨
    (s.takeTurn.1 = .fg ∧ s.seq.state = .windowSet ∧ t.seq.state = .streamingArmed) ∨
    (s.takeTurn.1 = .fg ∧ s.seq.state = .streamingArmed ∧ t.seq.state = .streaming) ∨
    (s.seq.state = .streaming ∧ t.seq.state = .idle ∧
      ((s.takeTurn.1 = .hd ∧ ∃ status r, s.hd = .active 9 status r) ∨
        (s.takeTurn.1 = .fg ∧ s.fetch = .command .seqHandshake ∧ s.fg.k = 11)))

/-- R260, R243 H7: while a fill is under way the profile goes to CommandMode only at H7. That H7 is SEQ.HANDSHAKE's micro-step 9 is
the model's numbering (log 12). -/
def Obligations.SingleWriterOfProfile : Prop :=
  ∀ s t : State, Inv s → step s = .next t → s.fillUnderWay → s.spi.profile ≠ .command → t.spi.profile = .command →
    (s.takeTurn.1 = .hd ∧ ∃ status r, s.hd = .active 7 status r) ∨
    (s.takeTurn.1 = .fg ∧ s.fetch = .command .seqHandshake ∧ s.fg.k = 9)

/-! ## The interrupt and the teardown (spec/60_exceptions.md) -/

/-- R240, R241, R242: the interrupt line is the OR of the enabled flags. The entry: exactly when the interrupt is takeable, one step
reads the status and the remaining count and makes the handler active at H1; the foreground's context, the flags, memory and
everything else are kept. -/
def Obligations.Interrupt : Prop :=
  (∀ s : State, s.irqLine = true ↔ ∃ k : FlagKind, hasFlag s.dma.sr k = true ∧ hasFlag s.dma.ie k = true) ∧
  (∀ s : State,
     let takeable : Prop :=
       s.fault = none ∧ s.refused = none ∧ s.hd = .inactive ∧ s.irq.srcEn = true ∧ s.irq.masked = false ∧
       s.irqLine = true
     (takeable → entryStep s = { s with hd := .active 1 (s.dma.sr &&& s.dma.ie) s.dma.ndt }) ∧
     (¬ takeable → entryStep s = s))

/-- R243, R244, R246, R247, R286: one activation, TC in its status, the sequencer Streaming: the flags of the status cleared, CS
low, the link in CommandMode, enabled, without its DMA request and its received byte, the sequencer Idle, the hooks in the order
errors, half transfer, completion, and the handler inactive. By the handler alone when the link is drained; with a link still
busy, as after a completion, H3 lowers CS first, H4 holds while the link is busy, and the shifter's steps there send the frame
being shifted, unstable when CS or DC differ from its start, and the frame in the transmit buffer, with CS = 0. -/
def Obligations.TeardownRuns : Prop :=
  (∀ (s : State) (status : BitVec 5) (r : Half), s.fault = none → s.refused = none → s.hd = .active 1 status r →
     hasFlag status .tc = true → s.seq.state = .streaming → s.bsy = false → s.spi.gPrev = s.gate →
     runSteps 11 (s.scheduled (List.replicate 11 .hd)) =
       .next
         { s with
           hd := .inactive
           dma := { s.dma with sr := s.dma.sr &&& ~~~status }
           spi := { s.spi with profile := .command, spe := true, txDmaEn := false, rxBuf := none, gPrev := false }
           line := { s.line with cs := false }
           seq := { s.seq with state := .idle }
           trace :=
             s.trace ++
               if s.par.hookPresent then
                 ([FlagKind.te, .dme, .fe, .ht].filter (hasFlag status)).map (fun k => .hook k r) ++ [.hook .tc r]
               else [] }) ∧
  (∀ (s : State) (status : BitVec 5) (r : Half),
     (s.hd = .active 3 status r →
       handlerStep s = { s with line := { s.line with cs := false }, hd := .active 4 status r }) ∧
     (s.hd = .active 4 status r → s.spi.txBuf ≠ none ∨ s.spi.shift ≠ none → handlerStep s = s) ∧
     (s.hd = .active 4 status r → s.spi.txBuf = none → s.spi.shift = none →
       handlerStep s = { s with hd := .active 5 status r })) ∧
  (∀ (s : State) (status : BitVec 5) (r : Half), s.fault = none → s.refused = none → s.hd = .active 1 status r →
     hasFlag status .tc = true → s.seq.state = .streaming → s.spi.profile = .streaming → s.spi.spe = true →
     s.spi.gPrev = s.gate →
     ∃ (inp : Inputs) (req : Bool),
       runSteps 14 (s.scheduled (List.replicate 3 .hd ++ List.replicate 3 .sh ++ List.replicate 8 .hd)) =
         .next
           { s with
             inp := inp
             hd := .inactive
             dma := { s.dma with sr := s.dma.sr &&& ~~~status, req := req }
             spi :=
               { s.spi with
                 profile := .command, spe := true, txDmaEn := false, txBuf := none, shift := none, rxBuf := none,
                 gPrev := false }
             line := { s.line with cs := false }
             seq := { s.seq with state := .idle }
             trace :=
               s.trace ++
               (if s.par.hookPresent then
                 ([FlagKind.te, .dme, .fe, .ht].filter (hasFlag status)).map (fun k => .hook k r)
                else []) ++
               (match s.spi.shift with
                | some x => [.frame x.cs0 x.dc0 x.frame (decide (x.cs0 = false ∧ x.dc0 = s.line.dc))]
                | none => []) ++
               (match s.spi.txBuf with
                | some f => [.frame false s.line.dc f true]
                | none => []) ++
               if s.par.hookPresent then [.hook .tc r] else [] })

/-- R245: an activation without TC in its status, or while the sequencer is not Streaming, clears the flags of its status, calls
the hooks and returns; it does not touch CS, the link or the sequencer. -/
def Obligations.NoTeardownRuns : Prop :=
  ∀ (s : State) (status : BitVec 5) (r : Half), s.fault = none → s.refused = none → s.hd = .active 1 status r →
    hasFlag status .tc = false ∨ s.seq.state ≠ .streaming → s.spi.gPrev = s.gate →
    runSteps 4 (s.scheduled (List.replicate 4 .hd)) =
      .next
        { s with
          hd := .inactive
          dma := { s.dma with sr := s.dma.sr &&& ~~~status }
          trace :=
            s.trace ++
              if s.par.hookPresent then
                ([FlagKind.te, .dme, .fe, .ht, .tc].filter (hasFlag status)).map (fun k => .hook k r)
              else [] }

/-- R247: at the teardown's drain wait the shifter empties an enabled link in at most three of its steps, with at most two
frames. -/
def Obligations.DrainIsBounded : Prop :=
  ∀ s : State, s.spi.spe = true →
    (shifterStep (shifterStep (shifterStep s))).bsy = false ∧
    ∃ es : List Event,
      (shifterStep (shifterStep (shifterStep s))).trace = s.trace ++ es ∧ es.length ≤ 2 ∧
      ∀ e ∈ es, ∃ (cs dc : Bool) (f : Frame) (stable : Bool), e = .frame cs dc f stable

/-- R199, R243, R245: SEQ.HANDSHAKE: its mask and status micro-steps, its wait, and by the foreground alone its two ways to its
end, with the flags of its status cleared, the hooks called, the mask restored; with TC in the status and the sequencer Streaming,
the teardown of R243. The indices 6 and 13 and the runs of 6 and 13 steps follow the model's numbering of its micro-steps
(log 12). -/
def Obligations.Handshake : Prop :=
  (∀ s : State,
     (s.fg.k = 1 →
       exec .seqHandshake s =
         .next
           (({ s with
               fg := { s.fg with savedMask := s.irq.masked }, irq := { s.irq with masked := true } } : State).goOn)) ∧
     (s.fg.k = 2 →
       exec .seqHandshake s =
         .next
           (({ s with
               fg := { s.fg with status := s.dma.sr &&& s.dma.ie, remaining := s.dma.ndt } } : State).goOn)) ∧
     (s.fg.k = 6 → s.bsy = true → exec .seqHandshake s = .next s) ∧
     (s.fg.k = 13 →
       exec .seqHandshake s = .next (({ s with irq := { s.irq with masked := s.fg.savedMask } } : State).done 1))) ∧
  (∀ (s : State) (status : BitVec 5), s.fgFree → s.fg.k = 1 → s.fetch = .command .seqHandshake →
     s.spi.gPrev = s.gate → status = s.dma.sr &&& s.dma.ie →
     let ended : State :=
       ({ s with
           fg := { s.fg with savedMask := s.irq.masked, status := status, remaining := s.dma.ndt }
           dma := { s.dma with sr := s.dma.sr &&& ~~~status }
           trace :=
             s.trace ++
               if s.par.hookPresent then
                 ([FlagKind.te, .dme, .fe, .ht, .tc].filter (hasFlag status)).map (fun k => .hook k s.dma.ndt)
               else [] } : State).done 1
     (hasFlag status .tc = false ∨ s.seq.state ≠ .streaming →
       runSteps 6 (s.scheduled (List.replicate 6 .fg)) = .next ended) ∧
     (hasFlag status .tc = true → s.seq.state = .streaming → s.bsy = false →
       runSteps 13 (s.scheduled (List.replicate 13 .fg)) =
         .next
           { ended with
             spi := { s.spi with profile := .command, spe := true, txDmaEn := false, rxBuf := none, gPrev := false }
             line := { s.line with cs := false }
             seq := { s.seq with state := .idle } }))

/-! ## The invariant of the block -/

/-- Every step keeps the stream's invariant (R25, R128, R131): EN exactly while Running, the counters and the FIFO in step, TC
only when Complete and with NDT = 0. -/
def Obligations.EngineInvariantKept : Prop :=
  ∀ s t : State, EngineInv s → step s = .next t → EngineInv t

/-- Every step keeps the invariant of the block, with the mux admission of R169, the single exchange under way, the sequencer's
and the teardown's progress (R194, R202, R243, R247), and the link enabled while a fill is under way but between the teardown's
H5 and H8 (R195, R243). -/
def Obligations.InvariantKept : Prop :=
  ∀ s t : State, Inv s → step s = .next t → Inv t

/-- F_SPI_TXFULL is never raised from a state of the invariant: an exchange finds the transmit buffer empty (R165, R167, R169). -/
def Obligations.TxFullIsDead : Prop :=
  ∀ s : State, Inv s → ∀ turn : Turn, turnStep turn s ≠ .fault .spiTxFull

/-! ## End of run (spec/70_reset_and_hazards.md R295) -/

/-- R295: a final state has no enabled step of any agent, the environment included. -/
def Obligations.FinalHasNoStep : Prop :=
  ∀ s : State, s.final = true →
    s.anyEnabled = false ∧ foregroundStep s = .next s ∧ handlerStep s = s ∧ entryStep s = s ∧ fetchStep s = s ∧
    handoffStep s = .next s ∧ shifterStep s = s ∧ errorStep s = s

/-- R287: when the request of a running stream was lost, the gate stays high and the request latch stays clear for good. Whatever
agent steps, the stream stays so, with its count and its handed elements unchanged, or an error stops it (Aborted, the same
count); and a stream so, running or aborted, stays so in every step but the foreground's, an interrupt's handler included. -/
def Obligations.LostRequestIsForGood : Prop :=
  (∀ s t : State, Inv s → s.dma.state = .running → s.dma.req = false → s.gate = true → step s = .next t →
     t.dma.ndt = s.dma.ndt ∧ t.dma.handed = s.dma.handed ∧
     (t.dma.state = .aborted ∨
       (t.dma.state = .running ∧ t.dma.req = false ∧ t.gate = true ∧ t.spi.gPrev = true ∧
         (s.spi.shift = none → t.spi.shift = none)))) ∧
  (∀ s t : State, Inv s → s.dma.state = .running ∨ s.dma.state = .aborted → s.dma.req = false → s.gate = true →
     s.takeTurn.1 ≠ .fg → step s = .next t →
     t.dma.ndt = s.dma.ndt ∧ t.dma.handed = s.dma.handed ∧ (t.dma.state = .running ∨ t.dma.state = .aborted) ∧
     t.dma.req = false ∧ t.gate = true ∧ t.spi.gPrev = true ∧ (s.spi.shift = none → t.spi.shift = none))
end

