-- ==== Sys2Proof/Laws/Encoding.lean ====
section
/-! SUPPORT. The fields of a header word and of the control word, as the decoder reads them back from what the encoder writes
(spec/30_encoding.md R91, R96). -/

namespace Sys2Proof

/-! ### Header words (R91) -/

theorem getLsbD_headerWord (o a : Byte) (b : Half) (i : Nat) :
    (headerWord o a b).getLsbD i =
      if i < 16 then b.getLsbD i else if i - 16 < 8 then a.getLsbD (i - 16) else o.getLsbD (i - 16 - 8) := by
  show ((o ++ a ++ b : BitVec (8 + 8 + 16)).getLsbD i) = _
  rw [BitVec.getLsbD_append, BitVec.getLsbD_append]

/-- The opcode of a header word. -/
@[simp] theorem opcOf_headerWord (o a : Byte) (b : Half) : opcOf (headerWord o a b) = o := by
  refine BitVec.eq_of_getLsbD_eq fun i hi => ?_
  simp [opcOf, getLsbD_headerWord, hi, show ¬ 24 + i < 16 by omega, show ¬ 24 + i - 16 < 8 by omega,
    show 24 + i - 16 - 8 = i by omega]

/-- The A field of a header word. -/
@[simp] theorem argAOf_headerWord (o a : Byte) (b : Half) : argAOf (headerWord o a b) = a := by
  refine BitVec.eq_of_getLsbD_eq fun i hi => ?_
  simp [argAOf, getLsbD_headerWord, hi]

/-- The B field of a header word. -/
@[simp] theorem argBOf_headerWord (o a : Byte) (b : Half) : argBOf (headerWord o a b) = b := by
  refine BitVec.eq_of_getLsbD_eq fun i hi => ?_
  simp [argBOf, getLsbD_headerWord, hi]

/-- A mask acts on each field of a header word by itself. -/
theorem headerWord_and (o a mo ma : Byte) (b mb : Half) :
    headerWord o a b &&& headerWord mo ma mb = headerWord (o &&& mo) (a &&& ma) (b &&& mb) := by
  refine BitVec.eq_of_getLsbD_eq fun i _ => ?_
  simp only [BitVec.getLsbD_and, getLsbD_headerWord]
  split
  · rfl
  · split <;> rfl

/-- The header of a command with a stream id keeps the reserved bits clear (R93). -/
theorem streamHeader_and (o : Byte) (s : BitVec 3) (b mb : Half) (hb : b &&& mb = 0) :
    streamHeader o s b &&& headerWord 0xFF 0xF8 mb = headerWord o 0 0 := by
  unfold streamHeader
  rw [headerWord_and, hb, show BitVec.setWidth 8 s &&& 0xF8 = 0 by revert s; decide,
    show o &&& 0xFF = o from BitVec.and_allOnes]

/-- The stream id of a header (R93). -/
@[simp] theorem streamOf_streamHeader (o : Byte) (s : BitVec 3) (b : Half) : streamOf (streamHeader o s b) = s := by
  refine BitVec.eq_of_getLsbD_eq fun i hi => ?_
  simp [streamOf, streamHeader, getLsbD_headerWord, show i < 8 by omega, hi]

@[simp] theorem opcOf_streamHeader (o : Byte) (s : BitVec 3) (b : Half) : opcOf (streamHeader o s b) = o :=
  opcOf_headerWord _ _ _

/-- The low bits of B. -/
theorem extractLsb'_headerWord_lo (o a : Byte) (b : Half) (n : Nat) (h : n ≤ 16) :
    (headerWord o a b).extractLsb' 0 n = b.setWidth n := by
  refine BitVec.eq_of_getLsbD_eq fun i hi => ?_
  simp [getLsbD_headerWord, hi, show i < 16 by omega]

/-- The low bits of A. -/
theorem extractLsb'_headerWord_mid (o a : Byte) (b : Half) (n : Nat) (h : n ≤ 8) :
    (headerWord o a b).extractLsb' 16 n = a.setWidth n := by
  refine BitVec.eq_of_getLsbD_eq fun i hi => ?_
  simp [getLsbD_headerWord, hi, show i < 8 by omega]

/-- The line id of a header (R94). -/
@[simp] theorem lineOf_headerWord (o : Byte) (l : Line) (b : Half) : lineOf (headerWord o l.code b) = some l := by
  unfold lineOf
  rw [extractLsb'_headerWord_mid _ _ _ _ (by omega)]
  cases l <;> decide

/-- The profile argument of a header (R94). -/
@[simp] theorem modeOf_headerWord (o : Byte) (p : LinkMode) (b : Half) : modeOf (headerWord o p.code b) = p := by
  unfold modeOf
  rw [extractLsb'_headerWord_mid _ _ _ _ (by omega)]
  cases p <;> decide

/-! ### Operand words -/

@[simp] theorem loHalf_append (a b : Half) : loHalf (a ++ b) = b := by
  refine BitVec.eq_of_getLsbD_eq fun i hi => ?_
  simp only [loHalf, BitVec.getLsbD_extractLsb', hi, decide_true, Bool.true_and, Nat.zero_add]
  exact (BitVec.getLsbD_append (x := a) (y := b)).trans (if_pos hi)

@[simp] theorem hiHalf_append (a b : Half) : hiHalf (a ++ b) = a := by
  refine BitVec.eq_of_getLsbD_eq fun i hi => ?_
  simp only [hiHalf, BitVec.getLsbD_extractLsb', hi, decide_true, Bool.true_and]
  exact (BitVec.getLsbD_append (x := a) (y := b)).trans (by simp)

/-- The count word of DMA.CONFIG (R96). -/
theorem countWord (n : Half) : hiHalf (n.setWidth 32) = 0 ∧ loHalf (n.setWidth 32) = n := by
  constructor
  · refine BitVec.eq_of_getLsbD_eq fun i hi => ?_
    simp [hiHalf, hi]
  · refine BitVec.eq_of_getLsbD_eq fun i hi => ?_
    simp [loHalf, hi, show i < 32 by omega]

end Sys2Proof
end

