-- ==== Sys2Proof/Laws/State.lean ====
section
/-! SUPPORT. What each update of State does to each of its fields, one lemma per field per update, so that no proof unfolds a
record update. -/

namespace Sys2Proof.Machine

/-! ### emit -/

@[simp] theorem State.emit_res (s : State) (e : Event) : (s.emit e).res = s.res := rfl
@[simp] theorem State.emit_fg (s : State) (e : Event) : (s.emit e).fg = s.fg := rfl
@[simp] theorem State.emit_irq (s : State) (e : Event) : (s.emit e).irq = s.irq := rfl
@[simp] theorem State.emit_dma (s : State) (e : Event) : (s.emit e).dma = s.dma := rfl
@[simp] theorem State.emit_spi (s : State) (e : Event) : (s.emit e).spi = s.spi := rfl
@[simp] theorem State.emit_line (s : State) (e : Event) : (s.emit e).line = s.line := rfl
@[simp] theorem State.emit_hd (s : State) (e : Event) : (s.emit e).hd = s.hd := rfl
@[simp] theorem State.emit_seq (s : State) (e : Event) : (s.emit e).seq = s.seq := rfl
@[simp] theorem State.emit_mem (s : State) (e : Event) : (s.emit e).mem = s.mem := rfl
@[simp] theorem State.emit_trace (s : State) (e : Event) : (s.emit e).trace = s.trace ++ [e] := rfl
@[simp] theorem State.emit_fault (s : State) (e : Event) : (s.emit e).fault = s.fault := rfl
@[simp] theorem State.emit_refused (s : State) (e : Event) : (s.emit e).refused = s.refused := rfl
@[simp] theorem State.emit_prog (s : State) (e : Event) : (s.emit e).prog = s.prog := rfl
@[simp] theorem State.emit_par (s : State) (e : Event) : (s.emit e).par = s.par := rfl
@[simp] theorem State.emit_inp (s : State) (e : Event) : (s.emit e).inp = s.inp := rfl

/-! ### giveResult -/

@[simp] theorem State.giveResult_res (s : State) (v : Word) : (s.giveResult v).res = v := rfl
@[simp] theorem State.giveResult_fg (s : State) (v : Word) : (s.giveResult v).fg = s.fg := rfl
@[simp] theorem State.giveResult_irq (s : State) (v : Word) : (s.giveResult v).irq = s.irq := rfl
@[simp] theorem State.giveResult_dma (s : State) (v : Word) : (s.giveResult v).dma = s.dma := rfl
@[simp] theorem State.giveResult_spi (s : State) (v : Word) : (s.giveResult v).spi = s.spi := rfl
@[simp] theorem State.giveResult_line (s : State) (v : Word) : (s.giveResult v).line = s.line := rfl
@[simp] theorem State.giveResult_hd (s : State) (v : Word) : (s.giveResult v).hd = s.hd := rfl
@[simp] theorem State.giveResult_seq (s : State) (v : Word) : (s.giveResult v).seq = s.seq := rfl
@[simp] theorem State.giveResult_mem (s : State) (v : Word) : (s.giveResult v).mem = s.mem := rfl
@[simp] theorem State.giveResult_trace (s : State) (v : Word) : (s.giveResult v).trace = s.trace ++ [.result v] := rfl
@[simp] theorem State.giveResult_fault (s : State) (v : Word) : (s.giveResult v).fault = s.fault := rfl
@[simp] theorem State.giveResult_refused (s : State) (v : Word) : (s.giveResult v).refused = s.refused := rfl
@[simp] theorem State.giveResult_prog (s : State) (v : Word) : (s.giveResult v).prog = s.prog := rfl
@[simp] theorem State.giveResult_par (s : State) (v : Word) : (s.giveResult v).par = s.par := rfl
@[simp] theorem State.giveResult_inp (s : State) (v : Word) : (s.giveResult v).inp = s.inp := rfl

/-! ### markFault -/

@[simp] theorem State.markFault_res (s : State) (f : Fault) : (s.markFault f).res = s.res := rfl
@[simp] theorem State.markFault_fg (s : State) (f : Fault) : (s.markFault f).fg = s.fg := rfl
@[simp] theorem State.markFault_irq (s : State) (f : Fault) : (s.markFault f).irq = s.irq := rfl
@[simp] theorem State.markFault_dma (s : State) (f : Fault) : (s.markFault f).dma = s.dma := rfl
@[simp] theorem State.markFault_spi (s : State) (f : Fault) : (s.markFault f).spi = s.spi := rfl
@[simp] theorem State.markFault_line (s : State) (f : Fault) : (s.markFault f).line = s.line := rfl
@[simp] theorem State.markFault_hd (s : State) (f : Fault) : (s.markFault f).hd = s.hd := rfl
@[simp] theorem State.markFault_seq (s : State) (f : Fault) : (s.markFault f).seq = s.seq := rfl
@[simp] theorem State.markFault_mem (s : State) (f : Fault) : (s.markFault f).mem = s.mem := rfl
@[simp] theorem State.markFault_trace (s : State) (f : Fault) : (s.markFault f).trace = s.trace ++ [.fault f] := rfl
@[simp] theorem State.markFault_fault (s : State) (f : Fault) : (s.markFault f).fault = some f := rfl
@[simp] theorem State.markFault_refused (s : State) (f : Fault) : (s.markFault f).refused = s.refused := rfl
@[simp] theorem State.markFault_prog (s : State) (f : Fault) : (s.markFault f).prog = s.prog := rfl
@[simp] theorem State.markFault_par (s : State) (f : Fault) : (s.markFault f).par = s.par := rfl
@[simp] theorem State.markFault_inp (s : State) (f : Fault) : (s.markFault f).inp = s.inp := rfl

/-! ### markRefused -/

@[simp] theorem State.markRefused_res (s : State) (r : Refusal) : (s.markRefused r).res = s.res := rfl
@[simp] theorem State.markRefused_fg (s : State) (r : Refusal) : (s.markRefused r).fg = s.fg := rfl
@[simp] theorem State.markRefused_irq (s : State) (r : Refusal) : (s.markRefused r).irq = s.irq := rfl
@[simp] theorem State.markRefused_dma (s : State) (r : Refusal) : (s.markRefused r).dma = s.dma := rfl
@[simp] theorem State.markRefused_spi (s : State) (r : Refusal) : (s.markRefused r).spi = s.spi := rfl
@[simp] theorem State.markRefused_line (s : State) (r : Refusal) : (s.markRefused r).line = s.line := rfl
@[simp] theorem State.markRefused_hd (s : State) (r : Refusal) : (s.markRefused r).hd = s.hd := rfl
@[simp] theorem State.markRefused_seq (s : State) (r : Refusal) : (s.markRefused r).seq = s.seq := rfl
@[simp] theorem State.markRefused_mem (s : State) (r : Refusal) : (s.markRefused r).mem = s.mem := rfl
@[simp] theorem State.markRefused_trace (s : State) (r : Refusal) : (s.markRefused r).trace = s.trace ++ [.refused r] := rfl
@[simp] theorem State.markRefused_fault (s : State) (r : Refusal) : (s.markRefused r).fault = s.fault := rfl
@[simp] theorem State.markRefused_refused (s : State) (r : Refusal) : (s.markRefused r).refused = some r := rfl
@[simp] theorem State.markRefused_prog (s : State) (r : Refusal) : (s.markRefused r).prog = s.prog := rfl
@[simp] theorem State.markRefused_par (s : State) (r : Refusal) : (s.markRefused r).par = s.par := rfl
@[simp] theorem State.markRefused_inp (s : State) (r : Refusal) : (s.markRefused r).inp = s.inp := rfl

/-! ### setMasked -/

@[simp] theorem State.setMasked_res (s : State) (b : Bool) : (s.setMasked b).res = s.res := rfl
@[simp] theorem State.setMasked_fg (s : State) (b : Bool) : (s.setMasked b).fg = s.fg := rfl
@[simp] theorem State.setMasked_irq (s : State) (b : Bool) : (s.setMasked b).irq = { s.irq with masked := b } := rfl
@[simp] theorem State.setMasked_dma (s : State) (b : Bool) : (s.setMasked b).dma = s.dma := rfl
@[simp] theorem State.setMasked_spi (s : State) (b : Bool) : (s.setMasked b).spi = s.spi := rfl
@[simp] theorem State.setMasked_line (s : State) (b : Bool) : (s.setMasked b).line = s.line := rfl
@[simp] theorem State.setMasked_hd (s : State) (b : Bool) : (s.setMasked b).hd = s.hd := rfl
@[simp] theorem State.setMasked_seq (s : State) (b : Bool) : (s.setMasked b).seq = s.seq := rfl
@[simp] theorem State.setMasked_mem (s : State) (b : Bool) : (s.setMasked b).mem = s.mem := rfl
@[simp] theorem State.setMasked_trace (s : State) (b : Bool) : (s.setMasked b).trace = s.trace := rfl
@[simp] theorem State.setMasked_fault (s : State) (b : Bool) : (s.setMasked b).fault = s.fault := rfl
@[simp] theorem State.setMasked_refused (s : State) (b : Bool) : (s.setMasked b).refused = s.refused := rfl
@[simp] theorem State.setMasked_prog (s : State) (b : Bool) : (s.setMasked b).prog = s.prog := rfl
@[simp] theorem State.setMasked_par (s : State) (b : Bool) : (s.setMasked b).par = s.par := rfl
@[simp] theorem State.setMasked_inp (s : State) (b : Bool) : (s.setMasked b).inp = s.inp := rfl

/-! ### saveAndMask -/

@[simp] theorem State.saveAndMask_res (s : State) : (s.saveAndMask).res = s.res := rfl
@[simp] theorem State.saveAndMask_fg (s : State) : (s.saveAndMask).fg = { s.fg with savedMask := s.irq.masked } := rfl
@[simp] theorem State.saveAndMask_irq (s : State) : (s.saveAndMask).irq = { s.irq with masked := true } := rfl
@[simp] theorem State.saveAndMask_dma (s : State) : (s.saveAndMask).dma = s.dma := rfl
@[simp] theorem State.saveAndMask_spi (s : State) : (s.saveAndMask).spi = s.spi := rfl
@[simp] theorem State.saveAndMask_line (s : State) : (s.saveAndMask).line = s.line := rfl
@[simp] theorem State.saveAndMask_hd (s : State) : (s.saveAndMask).hd = s.hd := rfl
@[simp] theorem State.saveAndMask_seq (s : State) : (s.saveAndMask).seq = s.seq := rfl
@[simp] theorem State.saveAndMask_mem (s : State) : (s.saveAndMask).mem = s.mem := rfl
@[simp] theorem State.saveAndMask_trace (s : State) : (s.saveAndMask).trace = s.trace := rfl
@[simp] theorem State.saveAndMask_fault (s : State) : (s.saveAndMask).fault = s.fault := rfl
@[simp] theorem State.saveAndMask_refused (s : State) : (s.saveAndMask).refused = s.refused := rfl
@[simp] theorem State.saveAndMask_prog (s : State) : (s.saveAndMask).prog = s.prog := rfl
@[simp] theorem State.saveAndMask_par (s : State) : (s.saveAndMask).par = s.par := rfl
@[simp] theorem State.saveAndMask_inp (s : State) : (s.saveAndMask).inp = s.inp := rfl

/-! ### restoreMask -/

@[simp] theorem State.restoreMask_res (s : State) : (s.restoreMask).res = s.res := rfl
@[simp] theorem State.restoreMask_fg (s : State) : (s.restoreMask).fg = s.fg := rfl
@[simp] theorem State.restoreMask_irq (s : State) : (s.restoreMask).irq = { s.irq with masked := s.fg.savedMask } := rfl
@[simp] theorem State.restoreMask_dma (s : State) : (s.restoreMask).dma = s.dma := rfl
@[simp] theorem State.restoreMask_spi (s : State) : (s.restoreMask).spi = s.spi := rfl
@[simp] theorem State.restoreMask_line (s : State) : (s.restoreMask).line = s.line := rfl
@[simp] theorem State.restoreMask_hd (s : State) : (s.restoreMask).hd = s.hd := rfl
@[simp] theorem State.restoreMask_seq (s : State) : (s.restoreMask).seq = s.seq := rfl
@[simp] theorem State.restoreMask_mem (s : State) : (s.restoreMask).mem = s.mem := rfl
@[simp] theorem State.restoreMask_trace (s : State) : (s.restoreMask).trace = s.trace := rfl
@[simp] theorem State.restoreMask_fault (s : State) : (s.restoreMask).fault = s.fault := rfl
@[simp] theorem State.restoreMask_refused (s : State) : (s.restoreMask).refused = s.refused := rfl
@[simp] theorem State.restoreMask_prog (s : State) : (s.restoreMask).prog = s.prog := rfl
@[simp] theorem State.restoreMask_par (s : State) : (s.restoreMask).par = s.par := rfl
@[simp] theorem State.restoreMask_inp (s : State) : (s.restoreMask).inp = s.inp := rfl

/-! ### setSpe -/

@[simp] theorem State.setSpe_res (s : State) (b : Bool) : (s.setSpe b).res = s.res := rfl
@[simp] theorem State.setSpe_fg (s : State) (b : Bool) : (s.setSpe b).fg = s.fg := rfl
@[simp] theorem State.setSpe_irq (s : State) (b : Bool) : (s.setSpe b).irq = s.irq := rfl
@[simp] theorem State.setSpe_dma (s : State) (b : Bool) : (s.setSpe b).dma = s.dma := rfl
@[simp] theorem State.setSpe_spi (s : State) (b : Bool) : (s.setSpe b).spi = { s.spi with spe := b } := rfl
@[simp] theorem State.setSpe_line (s : State) (b : Bool) : (s.setSpe b).line = s.line := rfl
@[simp] theorem State.setSpe_hd (s : State) (b : Bool) : (s.setSpe b).hd = s.hd := rfl
@[simp] theorem State.setSpe_seq (s : State) (b : Bool) : (s.setSpe b).seq = s.seq := rfl
@[simp] theorem State.setSpe_mem (s : State) (b : Bool) : (s.setSpe b).mem = s.mem := rfl
@[simp] theorem State.setSpe_trace (s : State) (b : Bool) : (s.setSpe b).trace = s.trace := rfl
@[simp] theorem State.setSpe_fault (s : State) (b : Bool) : (s.setSpe b).fault = s.fault := rfl
@[simp] theorem State.setSpe_refused (s : State) (b : Bool) : (s.setSpe b).refused = s.refused := rfl
@[simp] theorem State.setSpe_prog (s : State) (b : Bool) : (s.setSpe b).prog = s.prog := rfl
@[simp] theorem State.setSpe_par (s : State) (b : Bool) : (s.setSpe b).par = s.par := rfl
@[simp] theorem State.setSpe_inp (s : State) (b : Bool) : (s.setSpe b).inp = s.inp := rfl

/-! ### profileWrite -/

@[simp] theorem State.profileWrite_res (s : State) (p : Profile) : (s.profileWrite p).res = s.res := rfl
@[simp] theorem State.profileWrite_fg (s : State) (p : Profile) : (s.profileWrite p).fg = s.fg := rfl
@[simp] theorem State.profileWrite_irq (s : State) (p : Profile) : (s.profileWrite p).irq = s.irq := rfl
@[simp] theorem State.profileWrite_dma (s : State) (p : Profile) : (s.profileWrite p).dma = s.dma := rfl
@[simp] theorem State.profileWrite_spi (s : State) (p : Profile) : (s.profileWrite p).spi = { s.spi with profile := p, txDmaEn := false, rxBuf := none } := rfl
@[simp] theorem State.profileWrite_line (s : State) (p : Profile) : (s.profileWrite p).line = s.line := rfl
@[simp] theorem State.profileWrite_hd (s : State) (p : Profile) : (s.profileWrite p).hd = s.hd := rfl
@[simp] theorem State.profileWrite_seq (s : State) (p : Profile) : (s.profileWrite p).seq = s.seq := rfl
@[simp] theorem State.profileWrite_mem (s : State) (p : Profile) : (s.profileWrite p).mem = s.mem := rfl
@[simp] theorem State.profileWrite_trace (s : State) (p : Profile) : (s.profileWrite p).trace = s.trace := rfl
@[simp] theorem State.profileWrite_fault (s : State) (p : Profile) : (s.profileWrite p).fault = s.fault := rfl
@[simp] theorem State.profileWrite_refused (s : State) (p : Profile) : (s.profileWrite p).refused = s.refused := rfl
@[simp] theorem State.profileWrite_prog (s : State) (p : Profile) : (s.profileWrite p).prog = s.prog := rfl
@[simp] theorem State.profileWrite_par (s : State) (p : Profile) : (s.profileWrite p).par = s.par := rfl
@[simp] theorem State.profileWrite_inp (s : State) (p : Profile) : (s.profileWrite p).inp = s.inp := rfl

/-! ### putTx -/

@[simp] theorem State.putTx_res (s : State) (f : Frame) : (s.putTx f).res = s.res := rfl
@[simp] theorem State.putTx_fg (s : State) (f : Frame) : (s.putTx f).fg = s.fg := rfl
@[simp] theorem State.putTx_irq (s : State) (f : Frame) : (s.putTx f).irq = s.irq := rfl
@[simp] theorem State.putTx_dma (s : State) (f : Frame) : (s.putTx f).dma = s.dma := rfl
@[simp] theorem State.putTx_spi (s : State) (f : Frame) : (s.putTx f).spi = { s.spi with txBuf := some f } := rfl
@[simp] theorem State.putTx_line (s : State) (f : Frame) : (s.putTx f).line = s.line := rfl
@[simp] theorem State.putTx_hd (s : State) (f : Frame) : (s.putTx f).hd = s.hd := rfl
@[simp] theorem State.putTx_seq (s : State) (f : Frame) : (s.putTx f).seq = s.seq := rfl
@[simp] theorem State.putTx_mem (s : State) (f : Frame) : (s.putTx f).mem = s.mem := rfl
@[simp] theorem State.putTx_trace (s : State) (f : Frame) : (s.putTx f).trace = s.trace := rfl
@[simp] theorem State.putTx_fault (s : State) (f : Frame) : (s.putTx f).fault = s.fault := rfl
@[simp] theorem State.putTx_refused (s : State) (f : Frame) : (s.putTx f).refused = s.refused := rfl
@[simp] theorem State.putTx_prog (s : State) (f : Frame) : (s.putTx f).prog = s.prog := rfl
@[simp] theorem State.putTx_par (s : State) (f : Frame) : (s.putTx f).par = s.par := rfl
@[simp] theorem State.putTx_inp (s : State) (f : Frame) : (s.putTx f).inp = s.inp := rfl

/-! ### dropRx -/

@[simp] theorem State.dropRx_res (s : State) : (s.dropRx).res = s.res := rfl
@[simp] theorem State.dropRx_fg (s : State) : (s.dropRx).fg = s.fg := rfl
@[simp] theorem State.dropRx_irq (s : State) : (s.dropRx).irq = s.irq := rfl
@[simp] theorem State.dropRx_dma (s : State) : (s.dropRx).dma = s.dma := rfl
@[simp] theorem State.dropRx_spi (s : State) : (s.dropRx).spi = { s.spi with rxBuf := none } := rfl
@[simp] theorem State.dropRx_line (s : State) : (s.dropRx).line = s.line := rfl
@[simp] theorem State.dropRx_hd (s : State) : (s.dropRx).hd = s.hd := rfl
@[simp] theorem State.dropRx_seq (s : State) : (s.dropRx).seq = s.seq := rfl
@[simp] theorem State.dropRx_mem (s : State) : (s.dropRx).mem = s.mem := rfl
@[simp] theorem State.dropRx_trace (s : State) : (s.dropRx).trace = s.trace := rfl
@[simp] theorem State.dropRx_fault (s : State) : (s.dropRx).fault = s.fault := rfl
@[simp] theorem State.dropRx_refused (s : State) : (s.dropRx).refused = s.refused := rfl
@[simp] theorem State.dropRx_prog (s : State) : (s.dropRx).prog = s.prog := rfl
@[simp] theorem State.dropRx_par (s : State) : (s.dropRx).par = s.par := rfl
@[simp] theorem State.dropRx_inp (s : State) : (s.dropRx).inp = s.inp := rfl

/-! ### setSeq -/

@[simp] theorem State.setSeq_res (s : State) (q : SeqState) : (s.setSeq q).res = s.res := rfl
@[simp] theorem State.setSeq_fg (s : State) (q : SeqState) : (s.setSeq q).fg = s.fg := rfl
@[simp] theorem State.setSeq_irq (s : State) (q : SeqState) : (s.setSeq q).irq = s.irq := rfl
@[simp] theorem State.setSeq_dma (s : State) (q : SeqState) : (s.setSeq q).dma = s.dma := rfl
@[simp] theorem State.setSeq_spi (s : State) (q : SeqState) : (s.setSeq q).spi = s.spi := rfl
@[simp] theorem State.setSeq_line (s : State) (q : SeqState) : (s.setSeq q).line = s.line := rfl
@[simp] theorem State.setSeq_hd (s : State) (q : SeqState) : (s.setSeq q).hd = s.hd := rfl
@[simp] theorem State.setSeq_seq (s : State) (q : SeqState) : (s.setSeq q).seq = { s.seq with state := q } := rfl
@[simp] theorem State.setSeq_mem (s : State) (q : SeqState) : (s.setSeq q).mem = s.mem := rfl
@[simp] theorem State.setSeq_trace (s : State) (q : SeqState) : (s.setSeq q).trace = s.trace := rfl
@[simp] theorem State.setSeq_fault (s : State) (q : SeqState) : (s.setSeq q).fault = s.fault := rfl
@[simp] theorem State.setSeq_refused (s : State) (q : SeqState) : (s.setSeq q).refused = s.refused := rfl
@[simp] theorem State.setSeq_prog (s : State) (q : SeqState) : (s.setSeq q).prog = s.prog := rfl
@[simp] theorem State.setSeq_par (s : State) (q : SeqState) : (s.setSeq q).par = s.par := rfl
@[simp] theorem State.setSeq_inp (s : State) (q : SeqState) : (s.setSeq q).inp = s.inp := rfl

/-! ### openWindow -/

@[simp] theorem State.openWindow_res (s : State) (w : Window) : (s.openWindow w).res = s.res := rfl
@[simp] theorem State.openWindow_fg (s : State) (w : Window) : (s.openWindow w).fg = s.fg := rfl
@[simp] theorem State.openWindow_irq (s : State) (w : Window) : (s.openWindow w).irq = s.irq := rfl
@[simp] theorem State.openWindow_dma (s : State) (w : Window) : (s.openWindow w).dma = s.dma := rfl
@[simp] theorem State.openWindow_spi (s : State) (w : Window) : (s.openWindow w).spi = s.spi := rfl
@[simp] theorem State.openWindow_line (s : State) (w : Window) : (s.openWindow w).line = { s.line with cs := true } := rfl
@[simp] theorem State.openWindow_hd (s : State) (w : Window) : (s.openWindow w).hd = s.hd := rfl
@[simp] theorem State.openWindow_seq (s : State) (w : Window) : (s.openWindow w).seq = { s.seq with win := w, pixCnt := BitVec.ofNat 16 w.pixelCount } := rfl
@[simp] theorem State.openWindow_mem (s : State) (w : Window) : (s.openWindow w).mem = s.mem := rfl
@[simp] theorem State.openWindow_trace (s : State) (w : Window) : (s.openWindow w).trace = s.trace := rfl
@[simp] theorem State.openWindow_fault (s : State) (w : Window) : (s.openWindow w).fault = s.fault := rfl
@[simp] theorem State.openWindow_refused (s : State) (w : Window) : (s.openWindow w).refused = s.refused := rfl
@[simp] theorem State.openWindow_prog (s : State) (w : Window) : (s.openWindow w).prog = s.prog := rfl
@[simp] theorem State.openWindow_par (s : State) (w : Window) : (s.openWindow w).par = s.par := rfl
@[simp] theorem State.openWindow_inp (s : State) (w : Window) : (s.openWindow w).inp = s.inp := rfl

/-! ### configure -/

@[simp] theorem State.configure_res (s : State) (d : Descriptor) : (s.configure d).res = s.res := rfl
@[simp] theorem State.configure_fg (s : State) (d : Descriptor) : (s.configure d).fg = s.fg := rfl
@[simp] theorem State.configure_irq (s : State) (d : Descriptor) : (s.configure d).irq = s.irq := rfl
@[simp] theorem State.configure_dma (s : State) (d : Descriptor) :
    (s.configure d).dma =
      { en := s.dma.en, state := .armed, chsel := d.chsel, esize := d.esize, burst := d.burst, fen := d.fen,
        fth := d.fth, ie := d.ie, src := d.src, dst := d.dst, ndtCfg := d.count, ndt := d.count, sr := 0, fifo := [],
        fetched := 0, handed := 0, req := false } := rfl
@[simp] theorem State.configure_spi (s : State) (d : Descriptor) : (s.configure d).spi = s.spi := rfl
@[simp] theorem State.configure_line (s : State) (d : Descriptor) : (s.configure d).line = s.line := rfl
@[simp] theorem State.configure_hd (s : State) (d : Descriptor) : (s.configure d).hd = s.hd := rfl
@[simp] theorem State.configure_seq (s : State) (d : Descriptor) : (s.configure d).seq = s.seq := rfl
@[simp] theorem State.configure_mem (s : State) (d : Descriptor) : (s.configure d).mem = s.mem := rfl
@[simp] theorem State.configure_trace (s : State) (d : Descriptor) : (s.configure d).trace = s.trace := rfl
@[simp] theorem State.configure_fault (s : State) (d : Descriptor) : (s.configure d).fault = s.fault := rfl
@[simp] theorem State.configure_refused (s : State) (d : Descriptor) : (s.configure d).refused = s.refused := rfl
@[simp] theorem State.configure_prog (s : State) (d : Descriptor) : (s.configure d).prog = s.prog := rfl
@[simp] theorem State.configure_par (s : State) (d : Descriptor) : (s.configure d).par = s.par := rfl
@[simp] theorem State.configure_inp (s : State) (d : Descriptor) : (s.configure d).inp = s.inp := rfl

/-! ### startStream -/

@[simp] theorem State.startStream_res (s : State) : (s.startStream).res = s.res := rfl
@[simp] theorem State.startStream_fg (s : State) : (s.startStream).fg = s.fg := rfl
@[simp] theorem State.startStream_irq (s : State) : (s.startStream).irq = s.irq := rfl
@[simp] theorem State.startStream_dma (s : State) : (s.startStream).dma = { s.dma with en := true, state := .running } := rfl
@[simp] theorem State.startStream_spi (s : State) : (s.startStream).spi = s.spi := rfl
@[simp] theorem State.startStream_line (s : State) : (s.startStream).line = s.line := rfl
@[simp] theorem State.startStream_hd (s : State) : (s.startStream).hd = s.hd := rfl
@[simp] theorem State.startStream_seq (s : State) : (s.startStream).seq = s.seq := rfl
@[simp] theorem State.startStream_mem (s : State) : (s.startStream).mem = s.mem := rfl
@[simp] theorem State.startStream_trace (s : State) : (s.startStream).trace = s.trace := rfl
@[simp] theorem State.startStream_fault (s : State) : (s.startStream).fault = s.fault := rfl
@[simp] theorem State.startStream_refused (s : State) : (s.startStream).refused = s.refused := rfl
@[simp] theorem State.startStream_prog (s : State) : (s.startStream).prog = s.prog := rfl
@[simp] theorem State.startStream_par (s : State) : (s.startStream).par = s.par := rfl
@[simp] theorem State.startStream_inp (s : State) : (s.startStream).inp = s.inp := rfl

/-! ### unarm -/

@[simp] theorem State.unarm_res (s : State) : (s.unarm).res = s.res := rfl
@[simp] theorem State.unarm_fg (s : State) : (s.unarm).fg = s.fg := rfl
@[simp] theorem State.unarm_irq (s : State) : (s.unarm).irq = s.irq := rfl
@[simp] theorem State.unarm_dma (s : State) : (s.unarm).dma = { s.dma with state := if s.dma.state = .armed then .idle else s.dma.state } := rfl
@[simp] theorem State.unarm_spi (s : State) : (s.unarm).spi = s.spi := rfl
@[simp] theorem State.unarm_line (s : State) : (s.unarm).line = s.line := rfl
@[simp] theorem State.unarm_hd (s : State) : (s.unarm).hd = s.hd := rfl
@[simp] theorem State.unarm_seq (s : State) : (s.unarm).seq = s.seq := rfl
@[simp] theorem State.unarm_mem (s : State) : (s.unarm).mem = s.mem := rfl
@[simp] theorem State.unarm_trace (s : State) : (s.unarm).trace = s.trace := rfl
@[simp] theorem State.unarm_fault (s : State) : (s.unarm).fault = s.fault := rfl
@[simp] theorem State.unarm_refused (s : State) : (s.unarm).refused = s.refused := rfl
@[simp] theorem State.unarm_prog (s : State) : (s.unarm).prog = s.prog := rfl
@[simp] theorem State.unarm_par (s : State) : (s.unarm).par = s.par := rfl
@[simp] theorem State.unarm_inp (s : State) : (s.unarm).inp = s.inp := rfl

/-! ### disableStream -/

@[simp] theorem State.disableStream_res (s : State) : (s.disableStream).res = s.res := rfl
@[simp] theorem State.disableStream_fg (s : State) : (s.disableStream).fg = s.fg := rfl
@[simp] theorem State.disableStream_irq (s : State) : (s.disableStream).irq = s.irq := rfl
@[simp] theorem State.disableStream_dma (s : State) : (s.disableStream).dma = { s.unarm.dma with en := false } := rfl
@[simp] theorem State.disableStream_spi (s : State) : (s.disableStream).spi = s.spi := rfl
@[simp] theorem State.disableStream_line (s : State) : (s.disableStream).line = s.line := rfl
@[simp] theorem State.disableStream_hd (s : State) : (s.disableStream).hd = s.hd := rfl
@[simp] theorem State.disableStream_seq (s : State) : (s.disableStream).seq = s.seq := rfl
@[simp] theorem State.disableStream_mem (s : State) : (s.disableStream).mem = s.mem := rfl
@[simp] theorem State.disableStream_trace (s : State) : (s.disableStream).trace = s.trace := rfl
@[simp] theorem State.disableStream_fault (s : State) : (s.disableStream).fault = s.fault := rfl
@[simp] theorem State.disableStream_refused (s : State) : (s.disableStream).refused = s.refused := rfl
@[simp] theorem State.disableStream_prog (s : State) : (s.disableStream).prog = s.prog := rfl
@[simp] theorem State.disableStream_par (s : State) : (s.disableStream).par = s.par := rfl
@[simp] theorem State.disableStream_inp (s : State) : (s.disableStream).inp = s.inp := rfl

/-! ### raiseFlag -/

@[simp] theorem State.raiseFlag_res (s : State) (k : FlagKind) : (s.raiseFlag k).res = s.res := rfl
@[simp] theorem State.raiseFlag_fg (s : State) (k : FlagKind) : (s.raiseFlag k).fg = s.fg := rfl
@[simp] theorem State.raiseFlag_irq (s : State) (k : FlagKind) : (s.raiseFlag k).irq = s.irq := rfl
@[simp] theorem State.raiseFlag_dma (s : State) (k : FlagKind) : (s.raiseFlag k).dma = { s.dma with sr := setFlag s.dma.sr k } := rfl
@[simp] theorem State.raiseFlag_spi (s : State) (k : FlagKind) : (s.raiseFlag k).spi = s.spi := rfl
@[simp] theorem State.raiseFlag_line (s : State) (k : FlagKind) : (s.raiseFlag k).line = s.line := rfl
@[simp] theorem State.raiseFlag_hd (s : State) (k : FlagKind) : (s.raiseFlag k).hd = s.hd := rfl
@[simp] theorem State.raiseFlag_seq (s : State) (k : FlagKind) : (s.raiseFlag k).seq = s.seq := rfl
@[simp] theorem State.raiseFlag_mem (s : State) (k : FlagKind) : (s.raiseFlag k).mem = s.mem := rfl
@[simp] theorem State.raiseFlag_trace (s : State) (k : FlagKind) : (s.raiseFlag k).trace = s.trace := rfl
@[simp] theorem State.raiseFlag_fault (s : State) (k : FlagKind) : (s.raiseFlag k).fault = s.fault := rfl
@[simp] theorem State.raiseFlag_refused (s : State) (k : FlagKind) : (s.raiseFlag k).refused = s.refused := rfl
@[simp] theorem State.raiseFlag_prog (s : State) (k : FlagKind) : (s.raiseFlag k).prog = s.prog := rfl
@[simp] theorem State.raiseFlag_par (s : State) (k : FlagKind) : (s.raiseFlag k).par = s.par := rfl
@[simp] theorem State.raiseFlag_inp (s : State) (k : FlagKind) : (s.raiseFlag k).inp = s.inp := rfl

/-! ### abortStream -/

@[simp] theorem State.abortStream_res (s : State) : (s.abortStream).res = s.res := rfl
@[simp] theorem State.abortStream_fg (s : State) : (s.abortStream).fg = s.fg := rfl
@[simp] theorem State.abortStream_irq (s : State) : (s.abortStream).irq = s.irq := rfl
@[simp] theorem State.abortStream_dma (s : State) : (s.abortStream).dma = { s.dma with en := false, state := .aborted, fifo := [] } := rfl
@[simp] theorem State.abortStream_spi (s : State) : (s.abortStream).spi = s.spi := rfl
@[simp] theorem State.abortStream_line (s : State) : (s.abortStream).line = s.line := rfl
@[simp] theorem State.abortStream_hd (s : State) : (s.abortStream).hd = s.hd := rfl
@[simp] theorem State.abortStream_seq (s : State) : (s.abortStream).seq = s.seq := rfl
@[simp] theorem State.abortStream_mem (s : State) : (s.abortStream).mem = s.mem := rfl
@[simp] theorem State.abortStream_trace (s : State) : (s.abortStream).trace = s.trace := rfl
@[simp] theorem State.abortStream_fault (s : State) : (s.abortStream).fault = s.fault := rfl
@[simp] theorem State.abortStream_refused (s : State) : (s.abortStream).refused = s.refused := rfl
@[simp] theorem State.abortStream_prog (s : State) : (s.abortStream).prog = s.prog := rfl
@[simp] theorem State.abortStream_par (s : State) : (s.abortStream).par = s.par := rfl
@[simp] theorem State.abortStream_inp (s : State) : (s.abortStream).inp = s.inp := rfl

/-! ### takeInterrupt -/

@[simp] theorem State.takeInterrupt_res (s : State) : (s.takeInterrupt).res = s.res := rfl
@[simp] theorem State.takeInterrupt_fg (s : State) : (s.takeInterrupt).fg = s.fg := rfl
@[simp] theorem State.takeInterrupt_irq (s : State) : (s.takeInterrupt).irq = s.irq := rfl
@[simp] theorem State.takeInterrupt_dma (s : State) : (s.takeInterrupt).dma = s.dma := rfl
@[simp] theorem State.takeInterrupt_spi (s : State) : (s.takeInterrupt).spi = s.spi := rfl
@[simp] theorem State.takeInterrupt_line (s : State) : (s.takeInterrupt).line = s.line := rfl
@[simp] theorem State.takeInterrupt_hd (s : State) : (s.takeInterrupt).hd = .active 1 (s.dma.sr &&& s.dma.ie) s.dma.ndt := rfl
@[simp] theorem State.takeInterrupt_seq (s : State) : (s.takeInterrupt).seq = s.seq := rfl
@[simp] theorem State.takeInterrupt_mem (s : State) : (s.takeInterrupt).mem = s.mem := rfl
@[simp] theorem State.takeInterrupt_trace (s : State) : (s.takeInterrupt).trace = s.trace := rfl
@[simp] theorem State.takeInterrupt_fault (s : State) : (s.takeInterrupt).fault = s.fault := rfl
@[simp] theorem State.takeInterrupt_refused (s : State) : (s.takeInterrupt).refused = s.refused := rfl
@[simp] theorem State.takeInterrupt_prog (s : State) : (s.takeInterrupt).prog = s.prog := rfl
@[simp] theorem State.takeInterrupt_par (s : State) : (s.takeInterrupt).par = s.par := rfl
@[simp] theorem State.takeInterrupt_inp (s : State) : (s.takeInterrupt).inp = s.inp := rfl

/-! ### returnFromInterrupt -/

@[simp] theorem State.returnFromInterrupt_res (s : State) : (s.returnFromInterrupt).res = s.res := rfl
@[simp] theorem State.returnFromInterrupt_fg (s : State) : (s.returnFromInterrupt).fg = s.fg := rfl
@[simp] theorem State.returnFromInterrupt_irq (s : State) : (s.returnFromInterrupt).irq = s.irq := rfl
@[simp] theorem State.returnFromInterrupt_dma (s : State) : (s.returnFromInterrupt).dma = s.dma := rfl
@[simp] theorem State.returnFromInterrupt_spi (s : State) : (s.returnFromInterrupt).spi = s.spi := rfl
@[simp] theorem State.returnFromInterrupt_line (s : State) : (s.returnFromInterrupt).line = s.line := rfl
@[simp] theorem State.returnFromInterrupt_hd (s : State) : (s.returnFromInterrupt).hd = .inactive := rfl
@[simp] theorem State.returnFromInterrupt_seq (s : State) : (s.returnFromInterrupt).seq = s.seq := rfl
@[simp] theorem State.returnFromInterrupt_mem (s : State) : (s.returnFromInterrupt).mem = s.mem := rfl
@[simp] theorem State.returnFromInterrupt_trace (s : State) : (s.returnFromInterrupt).trace = s.trace := rfl
@[simp] theorem State.returnFromInterrupt_fault (s : State) : (s.returnFromInterrupt).fault = s.fault := rfl
@[simp] theorem State.returnFromInterrupt_refused (s : State) : (s.returnFromInterrupt).refused = s.refused := rfl
@[simp] theorem State.returnFromInterrupt_prog (s : State) : (s.returnFromInterrupt).prog = s.prog := rfl
@[simp] theorem State.returnFromInterrupt_par (s : State) : (s.returnFromInterrupt).par = s.par := rfl
@[simp] theorem State.returnFromInterrupt_inp (s : State) : (s.returnFromInterrupt).inp = s.inp := rfl

/-! ### memWrite -/

@[simp] theorem State.memWrite_res (s : State) (a : Word) (n v : Nat) : (s.memWrite a n v).res = s.res := rfl
@[simp] theorem State.memWrite_fg (s : State) (a : Word) (n v : Nat) : (s.memWrite a n v).fg = s.fg := rfl
@[simp] theorem State.memWrite_irq (s : State) (a : Word) (n v : Nat) : (s.memWrite a n v).irq = s.irq := rfl
@[simp] theorem State.memWrite_dma (s : State) (a : Word) (n v : Nat) : (s.memWrite a n v).dma = s.dma := rfl
@[simp] theorem State.memWrite_spi (s : State) (a : Word) (n v : Nat) : (s.memWrite a n v).spi = s.spi := rfl
@[simp] theorem State.memWrite_line (s : State) (a : Word) (n v : Nat) : (s.memWrite a n v).line = s.line := rfl
@[simp] theorem State.memWrite_hd (s : State) (a : Word) (n v : Nat) : (s.memWrite a n v).hd = s.hd := rfl
@[simp] theorem State.memWrite_seq (s : State) (a : Word) (n v : Nat) : (s.memWrite a n v).seq = s.seq := rfl
@[simp] theorem State.memWrite_mem (s : State) (a : Word) (n v : Nat) : (s.memWrite a n v).mem = storeBytes s.mem a (inOrder s.par.memOrder (toBytesLE n v)) := rfl
@[simp] theorem State.memWrite_trace (s : State) (a : Word) (n v : Nat) : (s.memWrite a n v).trace = s.trace := rfl
@[simp] theorem State.memWrite_fault (s : State) (a : Word) (n v : Nat) : (s.memWrite a n v).fault = s.fault := rfl
@[simp] theorem State.memWrite_refused (s : State) (a : Word) (n v : Nat) : (s.memWrite a n v).refused = s.refused := rfl
@[simp] theorem State.memWrite_prog (s : State) (a : Word) (n v : Nat) : (s.memWrite a n v).prog = s.prog := rfl
@[simp] theorem State.memWrite_par (s : State) (a : Word) (n v : Nat) : (s.memWrite a n v).par = s.par := rfl
@[simp] theorem State.memWrite_inp (s : State) (a : Word) (n v : Nat) : (s.memWrite a n v).inp = s.inp := rfl

/-! ### advance -/

@[simp] theorem State.advance_res (s : State) (len : Nat) (last : Bool) : (s.advance len last).res = s.res := rfl
@[simp] theorem State.advance_fg (s : State) (len : Nat) (last : Bool) : (s.advance len last).fg = { s.fg with pc := if last then s.fg.pc + len else s.fg.pc, k := if last then 1 else s.fg.k + 1 } := rfl
@[simp] theorem State.advance_irq (s : State) (len : Nat) (last : Bool) : (s.advance len last).irq = s.irq := rfl
@[simp] theorem State.advance_dma (s : State) (len : Nat) (last : Bool) : (s.advance len last).dma = s.dma := rfl
@[simp] theorem State.advance_spi (s : State) (len : Nat) (last : Bool) : (s.advance len last).spi = s.spi := rfl
@[simp] theorem State.advance_line (s : State) (len : Nat) (last : Bool) : (s.advance len last).line = s.line := rfl
@[simp] theorem State.advance_hd (s : State) (len : Nat) (last : Bool) : (s.advance len last).hd = s.hd := rfl
@[simp] theorem State.advance_seq (s : State) (len : Nat) (last : Bool) : (s.advance len last).seq = s.seq := rfl
@[simp] theorem State.advance_mem (s : State) (len : Nat) (last : Bool) : (s.advance len last).mem = s.mem := rfl
@[simp] theorem State.advance_trace (s : State) (len : Nat) (last : Bool) : (s.advance len last).trace = s.trace := rfl
@[simp] theorem State.advance_fault (s : State) (len : Nat) (last : Bool) : (s.advance len last).fault = s.fault := rfl
@[simp] theorem State.advance_refused (s : State) (len : Nat) (last : Bool) : (s.advance len last).refused = s.refused := rfl
@[simp] theorem State.advance_prog (s : State) (len : Nat) (last : Bool) : (s.advance len last).prog = s.prog := rfl
@[simp] theorem State.advance_par (s : State) (len : Nat) (last : Bool) : (s.advance len last).par = s.par := rfl
@[simp] theorem State.advance_inp (s : State) (len : Nat) (last : Bool) : (s.advance len last).inp = s.inp := rfl

/-! ### loadShift -/

@[simp] theorem State.loadShift_res (s : State) (f : Frame) : (s.loadShift f).res = s.res := rfl
@[simp] theorem State.loadShift_fg (s : State) (f : Frame) : (s.loadShift f).fg = s.fg := rfl
@[simp] theorem State.loadShift_irq (s : State) (f : Frame) : (s.loadShift f).irq = s.irq := rfl
@[simp] theorem State.loadShift_dma (s : State) (f : Frame) : (s.loadShift f).dma = s.dma := rfl
@[simp] theorem State.loadShift_spi (s : State) (f : Frame) : (s.loadShift f).spi = { s.spi with txBuf := none, shift := some ⟨f, s.line.cs, s.line.dc⟩ } := rfl
@[simp] theorem State.loadShift_line (s : State) (f : Frame) : (s.loadShift f).line = s.line := rfl
@[simp] theorem State.loadShift_hd (s : State) (f : Frame) : (s.loadShift f).hd = s.hd := rfl
@[simp] theorem State.loadShift_seq (s : State) (f : Frame) : (s.loadShift f).seq = s.seq := rfl
@[simp] theorem State.loadShift_mem (s : State) (f : Frame) : (s.loadShift f).mem = s.mem := rfl
@[simp] theorem State.loadShift_trace (s : State) (f : Frame) : (s.loadShift f).trace = s.trace := rfl
@[simp] theorem State.loadShift_fault (s : State) (f : Frame) : (s.loadShift f).fault = s.fault := rfl
@[simp] theorem State.loadShift_refused (s : State) (f : Frame) : (s.loadShift f).refused = s.refused := rfl
@[simp] theorem State.loadShift_prog (s : State) (f : Frame) : (s.loadShift f).prog = s.prog := rfl
@[simp] theorem State.loadShift_par (s : State) (f : Frame) : (s.loadShift f).par = s.par := rfl
@[simp] theorem State.loadShift_inp (s : State) (f : Frame) : (s.loadShift f).inp = s.inp := rfl

/-! ### setLine -/

@[simp] theorem State.setLine_res (s : State) (l : Line) (b : Bool) : (s.setLine l b).res = s.res := by cases l <;> rfl
@[simp] theorem State.setLine_fg (s : State) (l : Line) (b : Bool) : (s.setLine l b).fg = s.fg := by cases l <;> rfl
@[simp] theorem State.setLine_irq (s : State) (l : Line) (b : Bool) : (s.setLine l b).irq = s.irq := by cases l <;> rfl
@[simp] theorem State.setLine_dma (s : State) (l : Line) (b : Bool) : (s.setLine l b).dma = s.dma := by cases l <;> rfl
@[simp] theorem State.setLine_spi (s : State) (l : Line) (b : Bool) : (s.setLine l b).spi = s.spi := by cases l <;> rfl
@[simp] theorem State.setLine_hd (s : State) (l : Line) (b : Bool) : (s.setLine l b).hd = s.hd := by cases l <;> rfl
@[simp] theorem State.setLine_seq (s : State) (l : Line) (b : Bool) : (s.setLine l b).seq = s.seq := by cases l <;> rfl
@[simp] theorem State.setLine_mem (s : State) (l : Line) (b : Bool) : (s.setLine l b).mem = s.mem := by cases l <;> rfl
@[simp] theorem State.setLine_trace (s : State) (l : Line) (b : Bool) : (s.setLine l b).trace = s.trace := by cases l <;> rfl
@[simp] theorem State.setLine_fault (s : State) (l : Line) (b : Bool) : (s.setLine l b).fault = s.fault := by cases l <;> rfl
@[simp] theorem State.setLine_refused (s : State) (l : Line) (b : Bool) : (s.setLine l b).refused = s.refused := by cases l <;> rfl
@[simp] theorem State.setLine_prog (s : State) (l : Line) (b : Bool) : (s.setLine l b).prog = s.prog := by cases l <;> rfl
@[simp] theorem State.setLine_par (s : State) (l : Line) (b : Bool) : (s.setLine l b).par = s.par := by cases l <;> rfl
@[simp] theorem State.setLine_inp (s : State) (l : Line) (b : Bool) : (s.setLine l b).inp = s.inp := by cases l <;> rfl

@[simp] theorem State.setLine_cs (s : State) (b : Bool) : (s.setLine .cs b).line = { s.line with cs := b } := rfl
@[simp] theorem State.setLine_dc (s : State) (b : Bool) : (s.setLine .dc b).line = { s.line with dc := b } := rfl
@[simp] theorem State.setLine_rst (s : State) (b : Bool) : (s.setLine .rst b).line = { s.line with rst := b } := rfl

/-! ### callHook -/

@[simp] theorem State.callHook_res (s : State) (k : FlagKind) (r : Half) : (s.callHook k r).res = s.res := by
  unfold State.callHook; split <;> rfl
@[simp] theorem State.callHook_fg (s : State) (k : FlagKind) (r : Half) : (s.callHook k r).fg = s.fg := by
  unfold State.callHook; split <;> rfl
@[simp] theorem State.callHook_irq (s : State) (k : FlagKind) (r : Half) : (s.callHook k r).irq = s.irq := by
  unfold State.callHook; split <;> rfl
@[simp] theorem State.callHook_dma (s : State) (k : FlagKind) (r : Half) : (s.callHook k r).dma = s.dma := by
  unfold State.callHook; split <;> rfl
@[simp] theorem State.callHook_spi (s : State) (k : FlagKind) (r : Half) : (s.callHook k r).spi = s.spi := by
  unfold State.callHook; split <;> rfl
@[simp] theorem State.callHook_line (s : State) (k : FlagKind) (r : Half) : (s.callHook k r).line = s.line := by
  unfold State.callHook; split <;> rfl
@[simp] theorem State.callHook_hd (s : State) (k : FlagKind) (r : Half) : (s.callHook k r).hd = s.hd := by
  unfold State.callHook; split <;> rfl
@[simp] theorem State.callHook_seq (s : State) (k : FlagKind) (r : Half) : (s.callHook k r).seq = s.seq := by
  unfold State.callHook; split <;> rfl
@[simp] theorem State.callHook_mem (s : State) (k : FlagKind) (r : Half) : (s.callHook k r).mem = s.mem := by
  unfold State.callHook; split <;> rfl
@[simp] theorem State.callHook_trace (s : State) (k : FlagKind) (r : Half) : (s.callHook k r).trace = s.trace ++ (if s.par.hookPresent then [.hook k r] else []) := by
  unfold State.callHook; split <;> simp
@[simp] theorem State.callHook_fault (s : State) (k : FlagKind) (r : Half) : (s.callHook k r).fault = s.fault := by
  unfold State.callHook; split <;> rfl
@[simp] theorem State.callHook_refused (s : State) (k : FlagKind) (r : Half) : (s.callHook k r).refused = s.refused := by
  unfold State.callHook; split <;> rfl
@[simp] theorem State.callHook_prog (s : State) (k : FlagKind) (r : Half) : (s.callHook k r).prog = s.prog := by
  unfold State.callHook; split <;> rfl
@[simp] theorem State.callHook_par (s : State) (k : FlagKind) (r : Half) : (s.callHook k r).par = s.par := by
  unfold State.callHook; split <;> rfl
@[simp] theorem State.callHook_inp (s : State) (k : FlagKind) (r : Half) : (s.callHook k r).inp = s.inp := by
  unfold State.callHook; split <;> rfl

/-! ### drawByte and takeTurn change only `inp` -/

@[simp] theorem State.drawByte_res (s : State) : s.drawByte.2.res = s.res := by
  unfold State.drawByte; split <;> rfl
@[simp] theorem State.drawByte_fg (s : State) : s.drawByte.2.fg = s.fg := by
  unfold State.drawByte; split <;> rfl
@[simp] theorem State.drawByte_irq (s : State) : s.drawByte.2.irq = s.irq := by
  unfold State.drawByte; split <;> rfl
@[simp] theorem State.drawByte_dma (s : State) : s.drawByte.2.dma = s.dma := by
  unfold State.drawByte; split <;> rfl
@[simp] theorem State.drawByte_spi (s : State) : s.drawByte.2.spi = s.spi := by
  unfold State.drawByte; split <;> rfl
@[simp] theorem State.drawByte_line (s : State) : s.drawByte.2.line = s.line := by
  unfold State.drawByte; split <;> rfl
@[simp] theorem State.drawByte_hd (s : State) : s.drawByte.2.hd = s.hd := by
  unfold State.drawByte; split <;> rfl
@[simp] theorem State.drawByte_seq (s : State) : s.drawByte.2.seq = s.seq := by
  unfold State.drawByte; split <;> rfl
@[simp] theorem State.drawByte_mem (s : State) : s.drawByte.2.mem = s.mem := by
  unfold State.drawByte; split <;> rfl
@[simp] theorem State.drawByte_trace (s : State) : s.drawByte.2.trace = s.trace := by
  unfold State.drawByte; split <;> rfl
@[simp] theorem State.drawByte_fault (s : State) : s.drawByte.2.fault = s.fault := by
  unfold State.drawByte; split <;> rfl
@[simp] theorem State.drawByte_refused (s : State) : s.drawByte.2.refused = s.refused := by
  unfold State.drawByte; split <;> rfl
@[simp] theorem State.drawByte_prog (s : State) : s.drawByte.2.prog = s.prog := by
  unfold State.drawByte; split <;> rfl
@[simp] theorem State.drawByte_par (s : State) : s.drawByte.2.par = s.par := by
  unfold State.drawByte; split <;> rfl
@[simp] theorem State.takeTurn_res (s : State) : s.takeTurn.2.res = s.res := rfl
@[simp] theorem State.takeTurn_fg (s : State) : s.takeTurn.2.fg = s.fg := rfl
@[simp] theorem State.takeTurn_irq (s : State) : s.takeTurn.2.irq = s.irq := rfl
@[simp] theorem State.takeTurn_dma (s : State) : s.takeTurn.2.dma = s.dma := rfl
@[simp] theorem State.takeTurn_spi (s : State) : s.takeTurn.2.spi = s.spi := rfl
@[simp] theorem State.takeTurn_line (s : State) : s.takeTurn.2.line = s.line := rfl
@[simp] theorem State.takeTurn_hd (s : State) : s.takeTurn.2.hd = s.hd := rfl
@[simp] theorem State.takeTurn_seq (s : State) : s.takeTurn.2.seq = s.seq := rfl
@[simp] theorem State.takeTurn_mem (s : State) : s.takeTurn.2.mem = s.mem := rfl
@[simp] theorem State.takeTurn_trace (s : State) : s.takeTurn.2.trace = s.trace := rfl
@[simp] theorem State.takeTurn_fault (s : State) : s.takeTurn.2.fault = s.fault := rfl
@[simp] theorem State.takeTurn_refused (s : State) : s.takeTurn.2.refused = s.refused := rfl
@[simp] theorem State.takeTurn_prog (s : State) : s.takeTurn.2.prog = s.prog := rfl
@[simp] theorem State.takeTurn_par (s : State) : s.takeTurn.2.par = s.par := rfl
@[simp] theorem State.takeTurn_gate (s : State) : s.takeTurn.2.gate = s.gate := rfl
@[simp] theorem State.takeTurn_fetch (s : State) : s.takeTurn.2.fetch = s.fetch := rfl
@[simp] theorem State.takeTurn_takeable (s : State) : s.takeTurn.2.takeable = s.takeable := rfl

/-! ### deliverRequest changes only `dma.req` and `inp` -/

@[simp] theorem State.deliverRequest_res (s : State) : s.deliverRequest.res = s.res := by
  unfold State.deliverRequest; split; · rfl
  split <;> simp
@[simp] theorem State.deliverRequest_fg (s : State) : s.deliverRequest.fg = s.fg := by
  unfold State.deliverRequest; split; · rfl
  split <;> simp
@[simp] theorem State.deliverRequest_irq (s : State) : s.deliverRequest.irq = s.irq := by
  unfold State.deliverRequest; split; · rfl
  split <;> simp
@[simp] theorem State.deliverRequest_spi (s : State) : s.deliverRequest.spi = s.spi := by
  unfold State.deliverRequest; split; · rfl
  split <;> simp
@[simp] theorem State.deliverRequest_line (s : State) : s.deliverRequest.line = s.line := by
  unfold State.deliverRequest; split; · rfl
  split <;> simp
@[simp] theorem State.deliverRequest_hd (s : State) : s.deliverRequest.hd = s.hd := by
  unfold State.deliverRequest; split; · rfl
  split <;> simp
@[simp] theorem State.deliverRequest_seq (s : State) : s.deliverRequest.seq = s.seq := by
  unfold State.deliverRequest; split; · rfl
  split <;> simp
@[simp] theorem State.deliverRequest_mem (s : State) : s.deliverRequest.mem = s.mem := by
  unfold State.deliverRequest; split; · rfl
  split <;> simp
@[simp] theorem State.deliverRequest_trace (s : State) : s.deliverRequest.trace = s.trace := by
  unfold State.deliverRequest; split; · rfl
  split <;> simp
@[simp] theorem State.deliverRequest_fault (s : State) : s.deliverRequest.fault = s.fault := by
  unfold State.deliverRequest; split; · rfl
  split <;> simp
@[simp] theorem State.deliverRequest_refused (s : State) : s.deliverRequest.refused = s.refused := by
  unfold State.deliverRequest; split; · rfl
  split <;> simp
@[simp] theorem State.deliverRequest_prog (s : State) : s.deliverRequest.prog = s.prog := by
  unfold State.deliverRequest; split; · rfl
  split <;> simp
@[simp] theorem State.deliverRequest_par (s : State) : s.deliverRequest.par = s.par := by
  unfold State.deliverRequest; split; · rfl
  split <;> simp

/-- A draw is an update of the inputs. -/
theorem State.drawByte_eq (s : State) : s.drawByte.2 = { s with inp := s.drawByte.2.inp } := by
  unfold State.drawByte; split <;> rfl

/-- Taking a turn is an update of the inputs. -/
theorem State.takeTurn_eq (s : State) : s.takeTurn.2 = { s with inp := s.takeTurn.2.inp } := rfl

theorem State.deliverRequest_dma (s : State) : ∃ b, s.deliverRequest.dma = { s.dma with req := b } := by
  unfold State.deliverRequest
  split; · exact ⟨s.dma.req, rfl⟩
  split
  · exact ⟨true, rfl⟩
  · exact ⟨_, by simp; rfl⟩

/-! ### endOfStep changes only `dma.req`, `spi.gPrev` and `inp` -/

@[simp] theorem State.endOfStep_res (s : State) : s.endOfStep.res = s.res := by
  unfold State.endOfStep; simp only; split <;> simp
@[simp] theorem State.endOfStep_fg (s : State) : s.endOfStep.fg = s.fg := by
  unfold State.endOfStep; simp only; split <;> simp
@[simp] theorem State.endOfStep_irq (s : State) : s.endOfStep.irq = s.irq := by
  unfold State.endOfStep; simp only; split <;> simp
@[simp] theorem State.endOfStep_line (s : State) : s.endOfStep.line = s.line := by
  unfold State.endOfStep; simp only; split <;> simp
@[simp] theorem State.endOfStep_hd (s : State) : s.endOfStep.hd = s.hd := by
  unfold State.endOfStep; simp only; split <;> simp
@[simp] theorem State.endOfStep_seq (s : State) : s.endOfStep.seq = s.seq := by
  unfold State.endOfStep; simp only; split <;> simp
@[simp] theorem State.endOfStep_mem (s : State) : s.endOfStep.mem = s.mem := by
  unfold State.endOfStep; simp only; split <;> simp
@[simp] theorem State.endOfStep_trace (s : State) : s.endOfStep.trace = s.trace := by
  unfold State.endOfStep; simp only; split <;> simp
@[simp] theorem State.endOfStep_fault (s : State) : s.endOfStep.fault = s.fault := by
  unfold State.endOfStep; simp only; split <;> simp
@[simp] theorem State.endOfStep_refused (s : State) : s.endOfStep.refused = s.refused := by
  unfold State.endOfStep; simp only; split <;> simp
@[simp] theorem State.endOfStep_prog (s : State) : s.endOfStep.prog = s.prog := by
  unfold State.endOfStep; simp only; split <;> simp
@[simp] theorem State.endOfStep_par (s : State) : s.endOfStep.par = s.par := by
  unfold State.endOfStep; simp only; split <;> simp

@[simp] theorem State.endOfStep_spi (s : State) : s.endOfStep.spi = { s.spi with gPrev := s.gate } := by
  unfold State.endOfStep; simp only; split <;> simp

theorem State.endOfStep_dma (s : State) : ∃ b, s.endOfStep.dma = { s.dma with req := b } := by
  unfold State.endOfStep; simp only; split
  · exact s.deliverRequest_dma
  · exact ⟨s.dma.req, rfl⟩

end Sys2Proof.Machine
end

