-- ==== Sys2Proof/Laws/Exec.lean ====
section
/-! SUPPORT. What one micro-step of a command can do, said once: µ1 is its checks and its effect (`exec_start`), a later
micro-step is the one its list names (`exec_later`), and the two commands of another shape have lemmas of their own. With them,
what a micro-step does to the list of micro-steps still to come. -/

namespace Sys2Proof.Machine

/-! ### Checks -/

@[simp] theorem firstStop_nil : firstStop [] = none := rfl

theorem firstStop_cons (b : Bool) (how : Stop) (cs : List (Bool × Stop)) :
    firstStop ((b, how) :: cs) = if b then some how else firstStop cs := rfl

/-- All checks pass exactly when none of the conditions holds. -/
theorem firstStop_eq_none {cs : List (Bool × Stop)} : firstStop cs = none ↔ ∀ c ∈ cs, c.1 = false := by
  induction cs with
  | nil => simp
  | cons c cs ih =>
    obtain ⟨b, how⟩ := c
    cases b <;> simp [firstStop_cons, ih]

/-- A guarded effect happens exactly when all checks pass. -/
theorem guarded_eq_next {cs : List (Bool × Stop)} {t u : State} :
    guarded cs t = .next u ↔ (∀ c ∈ cs, c.1 = false) ∧ u = t := by
  unfold guarded
  rw [← firstStop_eq_none]
  cases h : firstStop cs with
  | none => simp [eq_comm]
  | some how => cases how <;> simp [Stop.outcome]

/-! ### Micro-steps -/

/-- A later micro-step keeps the command's place, the program, the parameters and the inputs. -/
theorem Micro.act_keeps (m : Micro) (s : State) :
    (m.act s).fg.pc = s.fg.pc ∧ (m.act s).fg.k = s.fg.k ∧ (m.act s).prog = s.prog ∧ (m.act s).par = s.par ∧
    (m.act s).inp = s.inp ∧ (m.act s).hd = s.hd ∧ (m.act s).mem = s.mem ∧ (m.act s).fault = s.fault ∧
    (m.act s).refused = s.refused ∧ (m.act s).fg.halted = s.fg.halted := by
  cases m <;> simp [Micro.act]
  split <;> simp

/-- The checks of µ1 of a command, in order. -/
def startChecks : Instr → State → List (Bool × Stop)
  | .ctlWaitReady st, s => [wrongStream s st]
  | .memWr16 _ a, s => memWr16Checks s a
  | .dmaConfig st c src dst n, s =>
    match ElemSize.ofCode c.esize, Burst.ofCode c.burst with
    | some e, some b => dmaConfigChecks s st (configDescriptor c e b src dst n)
    | _, _ => [(true, .fault .reserved)]
  | .dmaStart st, s => dmaStartChecks s st
  | .dmaDisable st, s => dmaDisableChecks s st
  | .dmaIsReady st, s => [wrongStream s st]
  | .dmaClear st _, s => [wrongStream s st, exclusion s]
  | .dmaStatus st, s => [wrongStream s st]
  | .spiConfig _, s => spiConfigChecks s
  | .spiEnable, s => [exclusion s, (decide (s.spi.profile = .none), .fault .spiUnconfigured)]
  | .spiDisable, s => [exclusion s, (decide (s.dma.state = .running), .fault .spiBusy)]
  | .spiXchg _, s => spiXchgChecks s
  | .spiDmaReq, s => [exclusion s, (decide (s.spi.profile ≠ .streaming), .fault .spiMode)]
  | .seqWindow w, s => seqWindowChecks s w
  | .seqFill buf, s => seqFillChecks s buf
  | .seqFillWin w buf, s => [idleCheck s, (!w.valid, .fault .window)] ++ fillWindowChecks s w buf
  | .seqFillCtr w h buf, s =>
    [idleCheck s, (!centerSizeValid w h, .fault .window)] ++ fillWindowChecks s (centeredWindow w h) buf
  | .ctlNop, _ | .ctlHalt, _ | .ctlWaitIdle, _ | .cpuIrqOff, _ | .cpuIrqOn, _ | .irqEnable _, _ | .lineSet _, _
  | .lineClear _, _ | .seqHandshake, _ | .seqState, _ => []

/-- The effect of µ1 of a command whose checks pass. -/
def startEffect : Instr → State → State
  | .cpuIrqOff, s => s.setMasked true
  | .cpuIrqOn, s => s.setMasked false
  | .irqEnable id, s => s.enableSource id
  | .lineSet l, s => s.setLine l true
  | .lineClear l, s => s.setLine l false
  | .memWr16 v a, s => s.memWrite a 2 v.toNat
  | .dmaConfig _ c src dst n, s =>
    match ElemSize.ofCode c.esize, Burst.ofCode c.burst with
    | some e, some b => s.configure (configDescriptor c e b src dst n)
    | _, _ => s
  | .dmaStart _, s => s.startStream
  | .dmaDisable _, s => s.disableStream
  | .dmaIsReady _, s => s.giveResult s.readyWord
  | .dmaClear _ m, s => { s with dma := { s.dma with sr := clearFlags s.dma.sr m } }
  | .dmaStatus _, s => s.giveResult s.statusWord
  | .spiConfig p, s => s.profileWrite p.profile
  | .spiEnable, s => s.setSpe true
  | .spiXchg b, s => s.putTx (.f8 b)
  | .spiDmaReq, s => { s with spi := { s.spi with txDmaEn := true } }
  | .seqWindow w, s => s.openWindow w
  | .seqFill _, s => s.saveAndMask
  | .seqFillWin w _, s => s.openWindow w
  | .seqFillCtr w h _, s => s.openWindow (centeredWindow w h)
  | .seqState, s => s.giveResult s.blockWord
  | .ctlNop, s | .ctlHalt, s | .ctlWaitReady _, s | .ctlWaitIdle, s | .spiDisable, s | .seqHandshake, s => s

/-- What µ1 of a command made of checks and an effect answers. -/
theorem runCommand_guarded {len : Nat} {cs : List (Bool × Stop)} {u s : State} {f : State → Outcome} {rest : List Micro}
    (hk : s.fg.k = 1) (hf : f s = guarded cs u) :
    runCommand len f rest s =
      match firstStop cs with
      | none => .next (u.advance len rest.isEmpty)
      | some how => how.outcome := by
  unfold runCommand
  rw [hk]
  simp only [hf, guarded]
  cases h : firstStop cs with
  | none => rfl
  | some how => cases how <;> rfl

/-- What µ1 of a command without checks answers. -/
theorem runCommand_plain {len : Nat} {u s : State} {f : State → Outcome} {rest : List Micro} (hk : s.fg.k = 1)
    (hf : f s = .next u) : runCommand len f rest s = .next (u.advance len rest.isEmpty) := by
  unfold runCommand
  rw [hk]
  simp only [hf]

/-- µ1 of a command (R7, R13, R251). -/
theorem exec_start {i : Instr} {s : State} (hk : s.fg.k = 1) (hh : i ≠ .ctlHalt) (hs : i ≠ .seqHandshake) :
    exec i s =
      match firstStop (startChecks i s) with
      | none => .next ((startEffect i s).advance (1 + i.operandWords) i.laterSteps.isEmpty)
      | some how => how.outcome := by
  cases i
  case ctlHalt => exact absurd rfl hh
  case seqHandshake => exact absurd rfl hs
  case dmaConfig st c src dst n =>
    simp only [exec, execDmaConfig]
    refine runCommand_guarded hk ?_
    simp only [startChecks, startEffect]
    cases ElemSize.ofCode c.esize <;> cases Burst.ofCode c.burst <;> rfl
  all_goals
    simp only [exec, execCtlNop, execCtlWaitReady, execCtlWaitIdle, execCpuIrqOff, execCpuIrqOn, execIrqEnable,
      execLineSet, execLineClear, execMemWr16, execDmaStart, execDmaDisable, execDmaIsReady, execDmaClear, execDmaStatus,
      execSpiConfig, execSpiEnable, execSpiDisable, execSpiXchg, execSpiDmaReq, execSeqWindow, execSeqFill,
      execSeqFillWin, execSeqFillCtr, execSeqState]
  all_goals first
    | exact runCommand_guarded hk rfl
    | exact runCommand_plain hk rfl

/-- µ1 of CTL.HALT (R225). -/
theorem exec_halt {s : State} (hk : s.fg.k = 1) :
    exec .ctlHalt s = .next (({ s with fg := { s.fg with halted := true } } : State).emit .halt) := if_pos hk

/-- A micro-step of a command after its first (R7). -/
theorem exec_later {i : Instr} {s : State} {n : Nat} (hk : s.fg.k = n + 2) (hs : i ≠ .seqHandshake) :
    exec i s =
      match i.laterSteps[n]? with
      | none => .next s
      | some m =>
        if m.ready s then
          .next ((m.act s).advance (1 + i.operandWords) (n + 1 == i.laterSteps.length))
        else .next s := by
  cases i
  case seqHandshake => exact absurd rfl hs
  case ctlHalt => exact if_neg (by omega)
  all_goals
    simp only [exec, execCtlNop, execCtlWaitReady, execCtlWaitIdle, execCpuIrqOff, execCpuIrqOn, execIrqEnable,
      execLineSet, execLineClear, execMemWr16, execDmaConfig, execDmaStart, execDmaDisable, execDmaIsReady, execDmaClear,
      execDmaStatus, execSpiConfig, execSpiEnable, execSpiDisable, execSpiXchg, execSpiDmaReq, execSeqWindow,
      execSeqFill, execSeqFillWin, execSeqFillCtr, execSeqState, runCommand, hk, Instr.operandWords, Instr.laterSteps]
  all_goals rfl

/-- An index before the first micro-step does nothing (log 7). -/
theorem exec_zero {i : Instr} {s : State} (hk : s.fg.k = 0) : exec i s = .next s := by
  cases i <;>
    simp [exec, execCtlNop, execCtlHalt, execCtlWaitReady, execCtlWaitIdle, execCpuIrqOff, execCpuIrqOn, execIrqEnable,
      execLineSet, execLineClear, execMemWr16, execDmaConfig, execDmaStart, execDmaDisable, execDmaIsReady, execDmaClear,
      execDmaStatus, execSpiConfig, execSpiEnable, execSpiDisable, execSpiXchg, execSpiDmaReq, execSeqWindow,
      execSeqFill, execSeqFillWin, execSeqFillCtr, execSeqHandshake, execSeqState, runCommand, hk]

/-- What a micro-step that answers a next state is: a hold, µ1 with its checks passed, a later micro-step, CTL.HALT, or one of
SEQ.HANDSHAKE. -/
inductive ExecNext (i : Instr) (s t : State) : Prop where
  | hold (h : t = s)
  | start (hk : s.fg.k = 1) (pass : ∀ c ∈ startChecks i s, c.1 = false)
      (h : t = (startEffect i s).advance (1 + i.operandWords) i.laterSteps.isEmpty)
  | later (n : Nat) (m : Micro) (hk : s.fg.k = n + 2) (hm : i.laterSteps[n]? = some m) (ready : m.ready s = true)
      (h : t = (m.act s).advance (1 + i.operandWords) (n + 1 == i.laterSteps.length))
  | halt (hi : i = .ctlHalt) (hk : s.fg.k = 1)
      (h : t = ({ s with fg := { s.fg with halted := true } } : State).emit .halt)
  | handshake (hi : i = .seqHandshake) (h : execSeqHandshake s = .next t)

/-- Inversion of exec: what one micro-step can do. -/
theorem exec_next {i : Instr} {s t : State} (h : exec i s = .next t) : ExecNext i s t := by
  by_cases hs : i = .seqHandshake
  · subst hs; exact .handshake rfl h
  match hk : s.fg.k with
  | 0 =>
    rw [exec_zero hk] at h
    exact .hold (by simpa using h.symm)
  | 1 =>
    by_cases hh : i = .ctlHalt
    · subst hh
      rw [exec_halt hk] at h
      exact .halt rfl hk (by simpa using h.symm)
    · rw [exec_start hk hh hs] at h
      split at h
      · rename_i hn
        exact .start hk (firstStop_eq_none.1 hn) (by simpa using h.symm)
      · rename_i how _; cases how <;> simp [Stop.outcome] at h
  | n + 2 =>
    rw [exec_later hk hs] at h
    split at h
    · exact .hold (by simpa using h.symm)
    · rename_i m hm
      split at h
      · exact .later n m hk hm ‹_› (by simpa using h.symm)
      · exact .hold (by simpa using h.symm)

/-! ### The micro-steps still to come -/

/-- `pending` depends on the program and the foreground's place only. -/
theorem State.pending_congr {s t : State} (hp : t.prog = s.prog) (hpc : t.fg.pc = s.fg.pc) (hk : t.fg.k = s.fg.k) :
    t.pending = s.pending := by
  unfold State.pending State.fetch
  rw [hp, hpc, hk]

/-- At µ1 nothing is still to come: the command has not begun. -/
theorem State.pending_start {s : State} (hk : s.fg.k = 1) : s.pending = [] := by
  unfold State.pending
  split <;> simp [hk]

/-- Inside a command the head of what is still to come is the micro-step fg.k names. -/
theorem State.pending_later {s : State} {i : Instr} {n : Nat} {m : Micro} (hf : s.fetch = .command i)
    (hk : s.fg.k = n + 2) (hm : i.laterSteps[n]? = some m) : s.pending = m :: i.laterSteps.drop (n + 1) := by
  obtain ⟨hn, rfl⟩ := List.getElem?_eq_some_iff.1 hm
  unfold State.pending
  rw [hf, hk]
  simp only
  rw [if_neg (by omega), Nat.add_sub_cancel]
  exact List.drop_eq_getElem_cons hn

/-- After µ1 of a command all its later micro-steps are still to come. -/
theorem State.pending_after_start {s u : State} {i : Instr} (hf : s.fetch = .command i) (hk : u.fg.k = 1)
    (hp : u.prog = s.prog) (hpc : u.fg.pc = s.fg.pc) (len : Nat) :
    (u.advance len i.laterSteps.isEmpty).pending = i.laterSteps := by
  cases hl : i.laterSteps with
  | nil => exact State.pending_start rfl
  | cons m ms =>
    unfold State.pending
    have : (u.advance len (m :: ms).isEmpty).fetch = .command i := by
      rw [← hf]; unfold State.fetch; simp [hp, hpc]
    rw [this]
    simp [hk, hl]

/-- After a later micro-step the rest of the list is still to come. -/
theorem State.pending_after_later {s u : State} {i : Instr} {n : Nat} {m : Micro} (hf : s.fetch = .command i)
    (hk : s.fg.k = n + 2) (hm : i.laterSteps[n]? = some m) (huk : u.fg.k = s.fg.k) (hp : u.prog = s.prog)
    (hpc : u.fg.pc = s.fg.pc) (len : Nat) :
    (u.advance len (n + 1 == i.laterSteps.length)).pending = s.pending.tail := by
  rw [State.pending_later hf hk hm, List.tail_cons]
  obtain ⟨hn, -⟩ := List.getElem?_eq_some_iff.1 hm
  by_cases hl : n + 1 = i.laterSteps.length
  · rw [hl, List.drop_length]
    exact State.pending_start (by simp)
  · have hb : (n + 1 == i.laterSteps.length) = false := by simpa using hl
    unfold State.pending
    have : (u.advance len (n + 1 == i.laterSteps.length)).fetch = .command i := by
      rw [← hf]; unfold State.fetch; simp [hp, hpc, hb]
    rw [this]
    simp only [State.advance_fg, hb, huk, hk, Bool.false_eq_true, if_false]
    rw [if_neg (by omega)]
    congr 1

/-! ### What µ1 leaves alone -/

/-- The effect of µ1 keeps the place of the command, the program, the parameters and the handler. -/
theorem startEffect_keeps (i : Instr) (s : State) :
    (startEffect i s).fg.pc = s.fg.pc ∧ (startEffect i s).fg.k = s.fg.k ∧ (startEffect i s).prog = s.prog ∧
    (startEffect i s).par = s.par ∧ (startEffect i s).hd = s.hd := by
  cases i <;> simp [startEffect, State.enableSource]
  · split <;> simp
  · split <;> simp

/-- The effect of µ1 never moves the sequencer (R202). -/
theorem startEffect_seq (i : Instr) (s : State) : (startEffect i s).seq.state = s.seq.state := by
  cases i <;> first | rfl | skip
  · simp only [startEffect, State.enableSource]; split <;> rfl
  · simp [startEffect]
  · simp [startEffect]
  · simp only [startEffect]; split <;> simp

/-- Only SPI.CONFIG writes the profile at µ1 (R30). -/
theorem startEffect_profile {i : Instr} {s : State} (hne : (startEffect i s).spi.profile ≠ s.spi.profile) :
    ∃ p, i = .spiConfig p := by
  cases i
  case spiConfig p => exact ⟨p, rfl⟩
  case irqEnable => refine absurd ?_ hne; simp only [startEffect, State.enableSource]; split <;> rfl
  case lineSet => refine absurd ?_ hne; simp [startEffect]
  case lineClear => refine absurd ?_ hne; simp [startEffect]
  case dmaConfig => refine absurd ?_ hne; simp only [startEffect]; split <;> rfl
  all_goals exact absurd rfl hne

/-- µ1 never clears SPE. -/
theorem startEffect_spe (i : Instr) (s : State) :
    (startEffect i s).spi.spe = s.spi.spe ∨ (startEffect i s).spi.spe = true := by
  cases i <;> first | exact .inl rfl | exact .inr rfl | skip
  · refine .inl ?_; simp only [startEffect, State.enableSource]; split <;> rfl
  · refine .inl ?_; simp [startEffect]
  · refine .inl ?_; simp [startEffect]
  · refine .inl ?_; simp only [startEffect]; split <;> simp

/-- Of the micro-steps only `clearSpe` clears SPE (R167). -/
theorem Micro.act_spe (m : Micro) (s : State) :
    (m.act s).spi.spe = s.spi.spe ∨ m = .clearSpe ∨ (m.act s).spi.spe = true := by
  cases m <;> first | exact .inl rfl | exact .inr (.inl rfl) | exact .inr (.inr rfl) | skip
  refine .inl ?_
  simp only [Micro.act]
  split <;> rfl

/-! ### Holds of the foreground -/

@[simp] theorem State.moves_next (s t : State) : s.moves (.next t) = true ↔ t.fg ≠ s.fg := by simp [State.moves]

@[simp] theorem State.moves_fault (s : State) (f : Fault) : s.moves (.fault f) = true := rfl

@[simp] theorem State.moves_refused (s : State) (r : Refusal) : s.moves (.refused r) = true := rfl

/-- An unmarked foreground that is neither halted nor preempted is enabled by its next micro-step alone (R221). -/
theorem State.fgEnabled_free {s : State} (hf : s.fault = none) (hr : s.refused = none) (hh : s.fg.halted = false)
    (hd : s.hd = .inactive) :
    s.fgEnabled =
      match s.fetch with
      | .reject _ => true
      | .command i => s.moves (exec i s) := by
  unfold State.fgEnabled
  rw [hf, hr, hh, hd]
  rfl

/-- A command that goes on moves the foreground: its index or its place changes (R7). -/
theorem State.advance_moves {s t : State} {len : Nat} {last : Bool} (hk : t.fg.k = s.fg.k) (hpc : t.fg.pc = s.fg.pc)
    (hl : 1 ≤ len) : (t.advance len last).fg ≠ s.fg := by
  intro e
  have h1 := congrArg Fg.k e
  have h2 := congrArg Fg.pc e
  cases last <;> simp [hk, hpc] at h1 h2
  omega

end Sys2Proof.Machine
end

