-- ==== Sys2Proof/Laws/Memory.lean ====
section
/-! SUPPORT. Data memory: a read after a write, the canonical form is kept by every write, and two canonical memories that read
the same are equal. -/

namespace Sys2Proof.Machine

/-- The canonical form as a recursive predicate: every address above `lo`, below 2^32 and rising, no fresh byte listed. -/
def Memory.CanonFrom : Nat → Memory → Prop
  | _, [] => True
  | lo, (a, b) :: m => lo ≤ a ∧ a < 2 ^ 32 ∧ b ≠ Memory.fresh ∧ Memory.CanonFrom (a + 1) m

theorem Memory.CanonFrom.mono {m : Memory} {lo lo' : Nat} (h : Memory.CanonFrom lo m) (hl : lo' ≤ lo) :
    Memory.CanonFrom lo' m := by
  cases m with
  | nil => trivial
  | cons c m => exact ⟨hl.trans h.1, h.2⟩

theorem Memory.wf_nil : Memory.wf [] = true := by decide

theorem Memory.wf_cons (c : Host.Cell) (m : Memory) :
    Memory.wf (c :: m) = true ↔
      (∀ d ∈ m, c.1 < d.1) ∧ c.1 < 2 ^ 32 ∧ c.2 ≠ Memory.fresh ∧ Memory.wf m = true := by
  unfold Memory.wf
  simp only [List.pairwise_cons, List.all_cons, Bool.and_eq_true, decide_eq_true_eq, bne_iff_ne]
  tauto

theorem Memory.wf_iff_canon (m : Memory) : Memory.wf m = true ↔ Memory.CanonFrom 0 m := by
  suffices h : ∀ (m : Memory) (lo : Nat),
      (Memory.wf m = true ∧ ∀ d ∈ m, lo ≤ d.1) ↔ Memory.CanonFrom lo m by
    simpa using h m 0
  intro m
  induction m with
  | nil => intro lo; simp [Memory.CanonFrom, Memory.wf_nil]
  | cons c m ih =>
    intro lo
    rw [Memory.wf_cons]
    simp only [Memory.CanonFrom, ← ih, List.forall_mem_cons, Nat.succ_le_iff]
    constructor
    · rintro ⟨⟨h1, h2, h3, h4⟩, h5, h6⟩; exact ⟨h5, h2, h3, h4, h1⟩
    · rintro ⟨h5, h2, h3, h4, h1⟩; exact ⟨⟨h1, h2, h3, h4⟩, h5, fun d hd => (h5.trans (h1 d hd).le)⟩

theorem Memory.CanonFrom.read_below {m : Memory} {lo x : Nat} (h : Memory.CanonFrom lo m) (hx : x < lo) :
    Memory.read m x = Memory.fresh := by
  induction m generalizing lo with
  | nil => rfl
  | cons c m ih =>
    obtain ⟨h1, -, -, h4⟩ := h
    have : x ≠ c.1 := by omega
    simp only [Memory.read, if_neg this]
    exact ih h4 (by omega)

theorem Memory.CanonFrom.cons {m : Memory} {lo a : Nat} {v : Byte} (h : Memory.CanonFrom (a + 1) m) (hlo : lo ≤ a)
    (ha : a < 2 ^ 32) : Memory.CanonFrom lo (Memory.cons a v m) := by
  unfold Memory.cons
  split
  · exact h.mono (by omega)
  · exact ⟨hlo, ha, ‹_›, h⟩

theorem Memory.CanonFrom.write {m : Memory} {lo x : Nat} {v : Byte} (h : Memory.CanonFrom lo m) (hlo : lo ≤ x)
    (hx : x < 2 ^ 32) : Memory.CanonFrom lo (Memory.write m x v) := by
  induction m generalizing lo with
  | nil => exact Memory.CanonFrom.cons trivial hlo hx
  | cons c m ih =>
    obtain ⟨h1, h2, h3, h4⟩ := h
    simp only [Memory.write]
    split
    · rename_i hlt
      exact Memory.CanonFrom.cons ⟨hlt, h2, h3, h4⟩ hlo hx
    · split
      · subst_vars; exact Memory.CanonFrom.cons h4 hlo hx
      · exact ⟨h1, h2, h3, ih h4 (by omega)⟩

/-- A write keeps the canonical form. -/
theorem Memory.wf_write {m : Memory} {x : Nat} {v : Byte} (h : Memory.wf m = true) (hx : x < 2 ^ 32) :
    Memory.wf (Memory.write m x v) = true :=
  (Memory.wf_iff_canon _).2 (((Memory.wf_iff_canon _).1 h).write (Nat.zero_le _) hx)

/-- Storing bytes keeps the canonical form. -/
theorem Memory.wf_storeBytes {m : Memory} {a : Word} {bs : List Byte} (h : Memory.wf m = true) :
    Memory.wf (storeBytes m a bs) = true := by
  induction bs generalizing m a with
  | nil => exact h
  | cons b bs ih => exact ih (Memory.wf_write h a.isLt)

theorem Memory.CanonFrom.read_cons {m : Memory} {a x : Nat} {v : Byte} (h : Memory.CanonFrom (a + 1) m) :
    Memory.read (Memory.cons a v m) x = if x = a then v else Memory.read m x := by
  unfold Memory.cons
  by_cases hv : v = Memory.fresh
  · rw [if_pos hv]
    split
    · subst_vars; exact h.read_below (Nat.lt_succ_self _)
    · rfl
  · rw [if_neg hv]; rfl

theorem Memory.CanonFrom.read_write {m : Memory} {lo x y : Nat} {v : Byte} (h : Memory.CanonFrom lo m) :
    Memory.read (Memory.write m x v) y = if y = x then v else Memory.read m y := by
  induction m generalizing lo with
  | nil => exact Memory.CanonFrom.read_cons (m := []) trivial
  | cons c m ih =>
    obtain ⟨h1, h2, h3, h4⟩ := h
    simp only [Memory.write]
    split
    · rename_i hlt; exact Memory.CanonFrom.read_cons ⟨hlt, h2, h3, h4⟩
    · split
      · subst_vars
        rw [Memory.CanonFrom.read_cons h4]
        split
        · rfl
        · rename_i hne; simp [Memory.read, hne]
      · rename_i hne
        simp only [Memory.read]
        split
        · subst_vars; rw [if_neg (Ne.symm hne)]
        · exact ih h4

/-- Reading the byte just written. -/
theorem Memory.read_write_same {m : Memory} (x : Nat) (v : Byte) (h : Memory.wf m = true) :
    Memory.read (Memory.write m x v) x = v := by
  rw [((Memory.wf_iff_canon m).1 h).read_write, if_pos rfl]

/-- A write leaves every other byte alone. -/
theorem Memory.read_write_other {m : Memory} {x y : Nat} (v : Byte) (h : Memory.wf m = true) (hne : y ≠ x) :
    Memory.read (Memory.write m x v) y = Memory.read m y := by
  rw [((Memory.wf_iff_canon m).1 h).read_write, if_neg hne]

/-- Canonical memories that read the same are equal data. -/
theorem Memory.eq_of_read_eq {m m' : Memory} (h : Memory.wf m = true) (h' : Memory.wf m' = true)
    (hr : ∀ x, Memory.read m x = Memory.read m' x) : m = m' := by
  suffices key : ∀ (m m' : Memory) (lo : Nat), Memory.CanonFrom lo m → Memory.CanonFrom lo m' →
      (∀ x, Memory.read m x = Memory.read m' x) → m = m' from
    key m m' 0 ((Memory.wf_iff_canon m).1 h) ((Memory.wf_iff_canon m').1 h') hr
  clear h h' hr m m'
  intro m
  induction m with
  | nil =>
    intro m' lo _ h' hr
    cases m' with
    | nil => rfl
    | cons c m' =>
      have := hr c.1
      simp [Memory.read] at this
      exact absurd this.symm h'.2.2.1
  | cons c m ih =>
    intro m' lo h h' hr
    cases m' with
    | nil =>
      have := hr c.1
      simp [Memory.read] at this
      exact absurd this h.2.2.1
    | cons c' m' =>
      have hc : c.1 = c'.1 := by
        rcases Nat.lt_trichotomy c.1 c'.1 with hlt | heq | hgt
        · have := hr c.1
          rw [Memory.CanonFrom.read_below (m := c' :: m') (lo := c'.1) ⟨le_rfl, h'.2⟩ hlt] at this
          simp [Memory.read] at this
          exact absurd this h.2.2.1
        · exact heq
        · have := hr c'.1
          rw [Memory.CanonFrom.read_below (m := c :: m) (lo := c.1) ⟨le_rfl, h.2⟩ hgt] at this
          simp [Memory.read] at this
          exact absurd this.symm h'.2.2.1
      have hv : c.2 = c'.2 := by
        have := hr c.1
        simpa [Memory.read, hc] using this
      have hce : c = c' := Prod.ext hc hv
      subst hce
      congr 1
      refine ih m' (c.1 + 1) h.2.2.2 h'.2.2.2 fun x => ?_
      by_cases hx : x = c.1
      · rw [hx, h.2.2.2.read_below (Nat.lt_succ_self _), h'.2.2.2.read_below (Nat.lt_succ_self _)]
      · simpa [Memory.read, hx] using hr x

/-- A byte that none of the stored addresses names reads as before. -/
theorem Memory.read_storeBytes_other {m : Memory} {a : Word} {bs : List Byte} {x : Nat} (h : Memory.wf m = true)
    (hx : ∀ i, i < bs.length → x ≠ (a + BitVec.ofNat 32 i).toNat) :
    Memory.read (storeBytes m a bs) x = Memory.read m x := by
  induction bs generalizing m a with
  | nil => rfl
  | cons b bs ih =>
    simp only [storeBytes]
    rw [ih (Memory.wf_write h a.isLt)]
    · exact Memory.read_write_other b h (by simpa using hx 0 (by simp))
    · intro i hi
      have := hx (i + 1) (by simpa using hi)
      intro hc; apply this; rw [hc]
      congr 1
      simp [BitVec.ofNat_add, BitVec.add_assoc, BitVec.add_comm (1#32)]

theorem ofBytesLE_toBytesLE (n v : Nat) : ofBytesLE (toBytesLE n v) = v % 256 ^ n := by
  induction n generalizing v with
  | zero => simp [toBytesLE, ofBytesLE, Nat.mod_one]
  | succ n ih =>
    rw [toBytesLE, ofBytesLE, ih, BitVec.toNat_ofNat, pow_succ' 256 n, Nat.mod_mul]

theorem toBytesLE_length (n v : Nat) : (toBytesLE n v).length = n := by
  induction n generalizing v with
  | zero => rfl
  | succ n ih => simp [toBytesLE, ih]

end Sys2Proof.Machine
end

