-- ==== Sys2Proof/Laws/Operands.lean ====
section
/-! SUPPORT. Operand forms: the reserved codes of a control word are exactly those that name no width and no burst (R26, R96). -/

namespace Sys2Proof

theorem ElemSize.ofCode_isSome (c : BitVec 2) : (ElemSize.ofCode c).isSome = (c != 3) := by
  revert c; decide

theorem Machine.Burst.ofCode_isSome (c : BitVec 2) : (Machine.Burst.ofCode c).isSome = (c == 0 || c == 1) := by
  revert c; decide

/-- A well-formed control word names a width and a burst. -/
theorem Ctrl.wf_codes {c : Ctrl} (h : c.wf = true) :
    ∃ e b, ElemSize.ofCode c.esize = some e ∧ Machine.Burst.ofCode c.burst = some b := by
  have he := ElemSize.ofCode_isSome c.esize
  have hb := Machine.Burst.ofCode_isSome c.burst
  simp only [Ctrl.wf, Ctrl.esizeLegal, Ctrl.burstLegal, Bool.and_eq_true] at h
  rw [h.1] at he
  rw [h.2] at hb
  obtain ⟨e, he⟩ := Option.isSome_iff_exists.1 he
  obtain ⟨b, hb⟩ := Option.isSome_iff_exists.1 hb
  exact ⟨e, b, he, hb⟩

end Sys2Proof
end

