-- ==== Sys2Proof/Laws/Params.lean ====
section
/-! SUPPORT. The parameters that the spec gives as predicates are plain data here without loss: every predicate on the finite
domain is the meaning of some BurstRule (BURST_OK) and of some list of regions (RAM). -/

namespace Sys2Proof

/-- Every BURST_OK predicate is the meaning of a rule. -/
theorem burstRule_complete (f : Word → Half → ElemSize → Bool) :
    ∃ p : BurstRule, ∀ a n e, p.admits a n e = f a n e := by
  have key : ∀ l : List (Word × Half × ElemSize),
      ∃ p : BurstRule, ∀ a n e, p.admits a n e = true ↔ ((a, n, e) ∈ l ∧ f a n e = true) := by
    intro l
    induction l with
    | nil => exact ⟨.never, by simp [BurstRule.admits]⟩
    | cons x l ih =>
      obtain ⟨p, hp⟩ := ih
      obtain ⟨a0, n0, e0⟩ := x
      by_cases hf : f a0 n0 e0 = true
      · refine ⟨.either (.only a0 n0 e0) p, fun a n e => ?_⟩
        simp only [BurstRule.admits, Bool.or_eq_true, Bool.and_eq_true, beq_iff_eq, hp, List.mem_cons, Prod.mk.injEq]
        constructor
        · rintro (⟨⟨rfl, rfl⟩, rfl⟩ | h)
          · exact ⟨.inl ⟨rfl, rfl, rfl⟩, hf⟩
          · exact ⟨.inr h.1, h.2⟩
        · rintro ⟨⟨rfl, rfl, rfl⟩ | h, h2⟩
          · exact .inl ⟨⟨rfl, rfl⟩, rfl⟩
          · exact .inr ⟨h, h2⟩
      · refine ⟨p, fun a n e => ?_⟩
        rw [hp, List.mem_cons]
        constructor
        · exact fun h => ⟨.inr h.1, h.2⟩
        · rintro ⟨h | h, h2⟩
          · simp only [Prod.mk.injEq] at h
            obtain ⟨rfl, rfl, rfl⟩ := h
            exact absurd h2 hf
          · exact ⟨h, h2⟩
  obtain ⟨l, hl⟩ : ∃ l : List (Word × Half × ElemSize), ∀ x, x ∈ l := by
    refine ⟨(List.range (2 ^ 32)).flatMap fun a => (List.range (2 ^ 16)).flatMap fun n =>
      [ElemSize.byte, .half, .word].map fun e => (BitVec.ofNat 32 a, BitVec.ofNat 16 n, e), ?_⟩
    rintro ⟨a, n, e⟩
    simp only [List.mem_flatMap, List.mem_range, List.mem_map]
    exact ⟨a.toNat, a.isLt, n.toNat, n.isLt, e, by cases e <;> simp, by simp⟩
  obtain ⟨p, hp⟩ := key l
  refine ⟨p, fun a n e => Bool.eq_iff_iff.2 ?_⟩
  rw [hp]
  exact ⟨fun h => h.2, fun h => ⟨hl _, h⟩⟩

/-- Every RAM predicate is the meaning of a list of regions. -/
theorem ram_complete (f : Word → Bool) :
    ∃ rs : List Region, ∀ a : Word, (rs.any fun r => r.holds a.toNat) = f a := by
  refine ⟨((List.range (2 ^ 32)).filter fun a => f (BitVec.ofNat 32 a)).map fun a => ⟨a, 1⟩, fun a => ?_⟩
  rw [Bool.eq_iff_iff, List.any_eq_true]
  constructor
  · rintro ⟨r, hr, hh⟩
    obtain ⟨x, hx, rfl⟩ := List.mem_map.1 hr
    obtain ⟨-, hf⟩ := List.mem_filter.1 hx
    simp only [Region.holds, Bool.and_eq_true, decide_eq_true_eq] at hh
    have : a.toNat = x := by omega
    simpa [← this] using hf
  · intro h
    refine ⟨⟨a.toNat, 1⟩, List.mem_map.2 ⟨a.toNat, List.mem_filter.2 ⟨List.mem_range.2 a.isLt, by simpa using h⟩, rfl⟩, ?_⟩
    simp [Region.holds]

end Sys2Proof
end

