-- ==== Sys2Proof/Laws/PerInstr.lean ====
section
/-! SUPPORT. The family Encoding, one lemma per command: its packet is found in the opcode map by its header's opcode, has the
map's length, and keeps the header's reserved bits clear (spec/30_encoding.md R90, R91, R95). -/

namespace Sys2Proof.Laws.Encoding

/-- The packet of the command fits its row of the opcode map. -/
def Statement (i : Instr) : Prop :=
  ∃ r, findRow (opcOf ((encode i).headD 0)) = some r ∧ r.len = i.operandWords ∧ (encode i).length = 1 + r.len ∧
    (encode i).headD 0 &&& r.mask = r.pattern

theorem ctlNop : Statement .ctlNop :=
  ⟨_, congrArg findRow (opcOf_headerWord _ _ _), rfl, rfl, by decide⟩

theorem ctlHalt : Statement .ctlHalt :=
  ⟨_, congrArg findRow (opcOf_headerWord _ _ _), rfl, rfl, by decide⟩

theorem ctlWaitReady (stream : BitVec 3) : Statement (.ctlWaitReady stream) :=
  ⟨_, congrArg findRow (opcOf_streamHeader _ _ _), rfl, rfl, (streamHeader_and _ stream 0 0xFFFF (by decide)).trans (by decide)⟩

theorem ctlWaitIdle : Statement .ctlWaitIdle :=
  ⟨_, congrArg findRow (opcOf_headerWord _ _ _), rfl, rfl, by decide⟩

theorem cpuIrqOff : Statement .cpuIrqOff :=
  ⟨_, congrArg findRow (opcOf_headerWord _ _ _), rfl, rfl, by decide⟩

theorem cpuIrqOn : Statement .cpuIrqOn :=
  ⟨_, congrArg findRow (opcOf_headerWord _ _ _), rfl, rfl, by decide⟩

theorem irqEnable (id : Byte) : Statement (.irqEnable id) :=
  ⟨_, congrArg findRow (opcOf_headerWord _ _ _), rfl, rfl,
    (headerWord_and _ id 0xFF 0 0 0xFFFF).trans (by simp; decide)⟩

theorem lineSet (line : Line) : Statement (.lineSet line) :=
  ⟨_, congrArg findRow (opcOf_headerWord _ _ _), rfl, rfl, by cases line <;> decide⟩

theorem lineClear (line : Line) : Statement (.lineClear line) :=
  ⟨_, congrArg findRow (opcOf_headerWord _ _ _), rfl, rfl, by cases line <;> decide⟩

theorem memWr16 (value : Half) (addr : Word) : Statement (.memWr16 value addr) :=
  ⟨_, congrArg findRow (opcOf_headerWord _ _ _), rfl, rfl,
    (headerWord_and _ 0 0xFF 0xFF value 0).trans (by simp; decide)⟩

theorem dmaConfig (stream : BitVec 3) (ctrl : Ctrl) (src dst : Word) (count : Half) : Statement (.dmaConfig stream ctrl src dst count) :=
  ⟨_, congrArg findRow (opcOf_streamHeader _ _ _), rfl, rfl, (streamHeader_and _ stream 0 0xFFFF (by decide)).trans (by decide)⟩

theorem dmaStart (stream : BitVec 3) : Statement (.dmaStart stream) :=
  ⟨_, congrArg findRow (opcOf_streamHeader _ _ _), rfl, rfl, (streamHeader_and _ stream 0 0xFFFF (by decide)).trans (by decide)⟩

theorem dmaDisable (stream : BitVec 3) : Statement (.dmaDisable stream) :=
  ⟨_, congrArg findRow (opcOf_streamHeader _ _ _), rfl, rfl, (streamHeader_and _ stream 0 0xFFFF (by decide)).trans (by decide)⟩

theorem dmaIsReady (stream : BitVec 3) : Statement (.dmaIsReady stream) :=
  ⟨_, congrArg findRow (opcOf_streamHeader _ _ _), rfl, rfl, (streamHeader_and _ stream 0 0xFFFF (by decide)).trans (by decide)⟩

theorem dmaClear (stream : BitVec 3) (mask : BitVec 5) : Statement (.dmaClear stream mask) :=
  ⟨_, congrArg findRow (opcOf_streamHeader _ _ _), rfl, rfl,
    (streamHeader_and _ stream _ 0xFFE0 (by revert mask; decide)).trans (by decide)⟩

theorem dmaStatus (stream : BitVec 3) : Statement (.dmaStatus stream) :=
  ⟨_, congrArg findRow (opcOf_streamHeader _ _ _), rfl, rfl, (streamHeader_and _ stream 0 0xFFFF (by decide)).trans (by decide)⟩

theorem spiConfig (mode : LinkMode) : Statement (.spiConfig mode) :=
  ⟨_, congrArg findRow (opcOf_headerWord _ _ _), rfl, rfl, by cases mode <;> decide⟩

theorem spiEnable : Statement .spiEnable :=
  ⟨_, congrArg findRow (opcOf_headerWord _ _ _), rfl, rfl, by decide⟩

theorem spiDisable : Statement .spiDisable :=
  ⟨_, congrArg findRow (opcOf_headerWord _ _ _), rfl, rfl, by decide⟩

theorem spiXchg (byte : Byte) : Statement (.spiXchg byte) :=
  ⟨_, congrArg findRow (opcOf_headerWord _ _ _), rfl, rfl,
    (headerWord_and _ 0 0xFF 0xFF _ 0xFF00).trans
      (by rw [show byte.setWidth 16 &&& 0xFF00 = (0 : Half) by revert byte; decide]; decide)⟩

theorem spiDmaReq : Statement .spiDmaReq :=
  ⟨_, congrArg findRow (opcOf_headerWord _ _ _), rfl, rfl, by decide⟩

theorem seqWindow (win : Window) : Statement (.seqWindow win) :=
  ⟨_, congrArg findRow (opcOf_headerWord _ _ _), rfl, rfl, (by decide : headerWord 0x30 0 0 &&& 0xFFFFFFFF = 0x30000000)⟩

theorem seqFill (buf : Word) : Statement (.seqFill buf) :=
  ⟨_, congrArg findRow (opcOf_headerWord _ _ _), rfl, rfl, (by decide : headerWord 0x31 0 0 &&& 0xFFFFFFFF = 0x31000000)⟩

theorem seqFillWin (win : Window) (buf : Word) : Statement (.seqFillWin win buf) :=
  ⟨_, congrArg findRow (opcOf_headerWord _ _ _), rfl, rfl, (by decide : headerWord 0x32 0 0 &&& 0xFFFFFFFF = 0x32000000)⟩

theorem seqFillCtr (width height : Half) (buf : Word) : Statement (.seqFillCtr width height buf) :=
  ⟨_, congrArg findRow (opcOf_headerWord _ _ _), rfl, rfl, (by decide : headerWord 0x33 0 0 &&& 0xFFFFFFFF = 0x33000000)⟩

theorem seqHandshake : Statement .seqHandshake :=
  ⟨_, congrArg findRow (opcOf_headerWord _ _ _), rfl, rfl, by decide⟩

theorem seqState : Statement .seqState :=
  ⟨_, congrArg findRow (opcOf_headerWord _ _ _), rfl, rfl, by decide⟩

end Sys2Proof.Laws.Encoding
end

