-- ==== Sys2Proof/Laws/Programs.lean ====
section
/-! SUPPORT. The shape of the micro-step lists of the commands (R163, R194 to R196): what follows each micro-step. The check is a
Boolean computed on each command's list once; proofs use its readings on `State.pending`. -/

namespace Sys2Proof.Machine

/-- The micro-step is one of an exchange's after its put. -/
def Micro.awaits : Micro → Bool
  | .waitRx | .dropRx | .takeResult => true
  | _ => false

/-- The micro-step writes the pipeline descriptor. -/
def Micro.isPipeline : Micro → Bool
  | .pipeline _ => true
  | _ => false

/-- The next micro-step of the list exists and is the given one. -/
def headIs (m : Micro) (ms : List Micro) : Bool := ms.head? == some m

/-- No micro-step of an exchange comes next. -/
def headQuiet (ms : List Micro) : Bool :=
  match ms with
  | [] => true
  | m :: _ => !m.awaits

/-- An exchange is not in the list. -/
def noExchange (ms : List Micro) : Bool := ms.all fun m => !m.awaits

/-- The disable sequence, where it is in the list, is all in it. -/
def disableWhole (ms : List Micro) : Bool :=
  (!ms.contains .clearSpe || ms.contains .waitNotBusy) && (!ms.contains .streamingProfile || ms.contains .clearSpe)

/-- A fill's last part is in the list from the descriptor write on. -/
def beforeStart (ms : List Micro) : Bool :=
  ms.contains .startStream && ms.contains .requestOn && ms.contains .restoreMask && noExchange ms &&
  !ms.contains .clearSpe && !ms.contains .streamingProfile && !ms.contains .windowSet && !ms.contains .windowSetMasked

/-- What follows a micro-step. -/
def shapeAt : Micro → List Micro → Bool
  | .setDc _, ms => headQuiet ms && disableWhole ms
  | .put _, ms => headIs .waitRx ms && disableWhole ms
  | .waitRx, ms => (headIs .dropRx ms || headIs .takeResult ms) && disableWhole ms
  | .dropRx, ms => headQuiet ms && disableWhole ms
  | .takeResult, ms => ms.isEmpty
  | .waitNotBusy, ms => headIs .clearSpe ms && noExchange ms && !ms.contains .waitNotBusy
  | .clearSpe, ms =>
    noExchange ms && !ms.contains .waitNotBusy && !ms.contains .clearSpe &&
    (!ms.contains .armSequencer || ms.contains .waitSpeSet)
  | .waitSpeClear, ms => noExchange ms && !ms.contains .clearSpe
  | .streamingProfile, ms =>
    noExchange ms && !ms.contains .clearSpe && !ms.contains .streamingProfile && ms.contains .startStream &&
    ms.any Micro.isPipeline
  | .setSpe, ms => noExchange ms && !ms.contains .clearSpe && !ms.contains .streamingProfile
  | .waitSpeSet, ms => noExchange ms && !ms.contains .clearSpe && !ms.contains .streamingProfile
  | .armSequencer, ms =>
    beforeStart ms && !ms.contains .armSequencer && !ms.contains .waitSpeSet && ms.any Micro.isPipeline
  | .waitDmaOff, ms => ms.isEmpty || (beforeStart ms && !ms.contains .armSequencer && ms.any Micro.isPipeline)
  | .pipeline _, ms => beforeStart ms && !ms.contains .armSequencer && !ms.any Micro.isPipeline
  | .selectData, ms => beforeStart ms && !ms.contains .armSequencer && !ms.any Micro.isPipeline
  | .startStream, ms =>
    !ms.contains .startStream && headIs .requestOn ms && ms.contains .restoreMask && noExchange ms &&
    !ms.contains .clearSpe && !ms.contains .streamingProfile && !ms.contains .armSequencer &&
    !ms.contains .windowSet && !ms.contains .windowSetMasked && !ms.any Micro.isPipeline
  | .requestOn, ms => headIs .restoreMask ms && ms.tail.isEmpty
  | .restoreMask, ms => ms.isEmpty
  | .windowSet, ms => ms.isEmpty
  | .windowSetMasked, ms =>
    noExchange ms && disableWhole ms && ms.contains .armSequencer && ms.contains .waitNotBusy &&
    ms.contains .startStream && ms.any Micro.isPipeline && !ms.contains .windowSet && !ms.contains .windowSetMasked
  | .waitReady, ms => ms.isEmpty
  | .waitSeqIdle, ms => ms.isEmpty

/-- Every micro-step of the list is followed as `shapeAt` says. -/
def shaped : List Micro → Bool
  | [] => true
  | m :: ms => shapeAt m ms && shaped ms

theorem shaped_laterSteps (i : Instr) : shaped i.laterSteps = true := by
  cases i <;> rfl

theorem shaped_drop {ms : List Micro} (h : shaped ms = true) (n : Nat) : shaped (ms.drop n) = true := by
  induction n generalizing ms with
  | zero => exact h
  | succ n ih =>
    cases ms with
    | nil => rfl
    | cons m ms =>
      simp only [shaped, Bool.and_eq_true] at h
      exact ih h.2

/-- What is still to come of a command is shaped. -/
theorem State.shaped_pending (s : State) : shaped s.pending = true := by
  unfold State.pending
  split
  · split
    · rfl
    · exact shaped_drop (shaped_laterSteps _) _
  · rfl

/-- The numbers of micro-steps the rules give (R163, R165, R193, R195, R196). -/
theorem laterSteps_length (w : Window) (buf : Word) (b : Byte) :
    (Instr.spiDisable.laterSteps.length = 3) ∧ ((Instr.spiXchg b).laterSteps.length = 2) ∧
    ((Instr.seqWindow w).laterSteps.length = 39) ∧ ((Instr.seqFill buf).laterSteps.length = 13) ∧
    ((Instr.seqFillWin w buf).laterSteps.length = 52) := ⟨rfl, rfl, rfl, rfl, rfl⟩

end Sys2Proof.Machine
end

