-- ==== Sys2Proof/Laws/Step.lean ====
section
/-! SUPPORT. The machine step by the agent whose turn it is, the end of a step by the gate, and runs of several steps
(spec/00_scope.md R6, spec/41_spi.md R168): with these a proof about a run never unfolds `step`. -/

namespace Sys2Proof.Machine

/-! ### One step -/

/-- A step that answers next is the live step of a state without a mark. -/
theorem step_next {s t : State} (h : step s = .next t) : s.fault = none ∧ s.refused = none ∧ t = liveStep s := by
  unfold step at h
  split at h
  · cases h
  · cases h
  · exact ⟨‹_›, ‹_›, by simpa using h.symm⟩

theorem step_live {s : State} (hf : s.fault = none) (hr : s.refused = none) : step s = .next (liveStep s) := by
  unfold step
  rw [hf, hr]

/-- The first listed turn is taken first (log 4). -/
theorem State.takeTurn_cons {s : State} {t : Turn} {ts : List Turn} (h : s.inp.turns = t :: ts) :
    s.takeTurn = (t, { s with inp := { s.inp with turns := ts } }) := by
  simp [State.takeTurn, Inputs.nextTurn, h]

/-- A completed turn: the agent's step, then the edge rule. -/
theorem liveStep_next {s t : State} (h : turnStep s.takeTurn.1 s.takeTurn.2 = .next t) : liveStep s = t.endOfStep := by
  unfold liveStep
  rw [h]
  rfl

/-- The step of a state whose next turn is listed. -/
theorem step_turn {s t : State} {τ : Turn} {ts : List Turn} (hf : s.fault = none) (hr : s.refused = none)
    (ht : s.inp.turns = τ :: ts) (h : turnStep τ { s with inp := { s.inp with turns := ts } } = .next t) :
    step s = .next t.endOfStep := by
  rw [step_live hf hr, liveStep_next]
  rw [State.takeTurn_cons ht]
  exact h

/-- A free foreground performs the micro-step of the command it decodes. -/
theorem foregroundStep_free {s : State} {i : Instr} (hh : s.fg.halted = false) (hd : s.hd = .inactive)
    (hf : s.fetch = .command i) : foregroundStep s = exec i s := by
  unfold foregroundStep
  rw [hh, hd, hf]
  rfl

/-- What a foreground step that answers next is: a hold of a halted or preempted foreground, or the decoded micro-step. -/
theorem foregroundStep_next {s t : State} (h : foregroundStep s = .next t) :
    (t = s ∧ (s.fg.halted = true ∨ s.hd ≠ .inactive)) ∨
    (s.fg.halted = false ∧ s.hd = .inactive ∧ ∃ i, s.fetch = .command i ∧ exec i s = .next t) := by
  unfold foregroundStep at h
  split at h
  · rename_i hc
    exact .inl ⟨by simpa using h.symm, by simpa using hc⟩
  · rename_i hc
    simp only [Bool.or_eq_true, decide_eq_true_eq, not_or, not_not] at hc
    split at h
    · cases h
    · exact .inr ⟨by simpa using hc.1, hc.2, _, ‹_›, h⟩

/-- The step of a free foreground whose turn is listed next. -/
theorem step_fg {s t : State} {ts : List Turn} {i : Instr} (free : s.fgFree) (ht : s.inp.turns = .fg :: ts)
    (hf : s.fetch = .command i) (he : exec i { s with inp := { s.inp with turns := ts } } = .next t) :
    step s = .next t.endOfStep := by
  refine step_turn free.noFault free.noRefusal ht ?_
  rw [← he]
  exact foregroundStep_free free.notHalted free.notPreempted hf

/-! ### The end of a step -/

/-- A low gate delivers nothing. -/
theorem State.endOfStep_low {t : State} (h : t.gate = false) :
    t.endOfStep = { t with spi := { t.spi with gPrev := false } } := by
  simp [State.endOfStep, h]

/-- With GPREV at the gate's value the end of a step changes nothing. -/
theorem State.endOfStep_kept {t : State} (h : t.spi.gPrev = t.gate) : t.endOfStep = t := by
  unfold State.endOfStep
  have hn : (t.spi.gPrev && !t.spi.gPrev) = false := by cases t.spi.gPrev <;> rfl
  simp [← h, hn]

/-- A gate that rises while a stream with the link's channel runs latches its request (R135). -/
theorem State.endOfStep_rise {t : State} (h : t.gate = true) (hp : t.spi.gPrev = false)
    (hc : t.dma.chsel = t.par.spiTxChannel) (hr : t.dma.state = .running) :
    t.endOfStep = { t with spi := { t.spi with gPrev := true }, dma := { t.dma with req := true } } := by
  simp [State.endOfStep, h, hp, State.deliverRequest, hc, hr]

/-- A step whose turn leaves GPREV at the gate's value ends as the turn left it. -/
theorem step_turn_kept {s t : State} {τ : Turn} {ts : List Turn} (hf : s.fault = none) (hr : s.refused = none)
    (ht : s.inp.turns = τ :: ts) (h : turnStep τ { s with inp := { s.inp with turns := ts } } = .next t) (hg : t.spi.gPrev = t.gate) :
    step s = .next t := by
  rw [step_turn hf hr ht h, State.endOfStep_kept hg]

/-! ### Runs -/

@[simp] theorem runSteps_zero (s : State) : runSteps 0 s = .next s := rfl

theorem runSteps_succ {n : Nat} {s t : State} (h : step s = .next t) : runSteps (n + 1) s = runSteps n t := by
  rw [runSteps, h]

/-- A run is a run followed by a run. -/
theorem runSteps_add {m n : Nat} {s t : State} (h : runSteps m s = .next t) : runSteps (m + n) s = runSteps n t := by
  induction m generalizing s with
  | zero =>
    simp only [runSteps_zero, Host.Outcome.next.injEq] at h
    rw [h, Nat.zero_add]
  | succ m ih =>
    rw [runSteps] at h
    rw [Nat.add_right_comm, runSteps]
    split at h
    · exact ih h
    · cases h
    · cases h

end Sys2Proof.Machine
end

