-- ==== Sys2Proof/Laws/Teardown.lean ====
section
/-! SUPPORT. The teardown's steps, said once (spec/60_exceptions.md R243 to R246): H1 and H2 as one update each, what a step of the
teardown keeps, and what one micro-step of SEQ.HANDSHAKE can be. -/

namespace Sys2Proof.Machine

/-! ### Flags -/

/-- Clearing flags sets none. -/
theorem hasFlag_clearFlags {v m : BitVec 5} {k : FlagKind} (h : hasFlag (clearFlags v m) k = true) :
    hasFlag v k = true := by
  unfold hasFlag clearFlags at *
  simp only [BitVec.getLsbD_and, Bool.and_eq_true] at h
  exact h.1

/-- Setting a flag sets no other. -/
theorem hasFlag_setFlag {v : BitVec 5} {k k' : FlagKind} (h : hasFlag (setFlag v k) k' = true) (hne : k' ≠ k) :
    hasFlag v k' = true := by
  revert h hne
  cases k <;> cases k' <;> simp [hasFlag, setFlag, flagBit, FlagKind.bit]

/-- Clearing the flags of H1 and then the flag of H2 clears the whole status. -/
theorem clear_status (a status : BitVec 5) : a &&& ~~~(status &&& 0b11110) &&& ~~~(status &&& 0b00001) = a &&& ~~~status := by
  revert a status; decide

/-! ### H1 and H2 -/

/-- One kind of H1 as one update. -/
theorem serviceFlag_eq (status : BitVec 5) (r : Half) (s : State) (k : FlagKind) :
    serviceFlag status r s k =
      { s with
        dma := { s.dma with sr := s.dma.sr &&& ~~~(status &&& flagBit k) }
        trace :=
          s.trace ++
            (if s.par.hookPresent then (if hasFlag status k then [Event.hook k r] else []) else []) } := by
  have hit : ∀ (a b : BitVec 5) (k : FlagKind),
      (if hasFlag b k then clearFlag a k else a) = a &&& ~~~(b &&& flagBit k) := by
    intro a b k; revert a b; cases k <;> decide
  have := hit s.dma.sr status k
  unfold serviceFlag
  rw [← this]
  split
  · unfold State.callHook
    split <;> simp [State.emit]
  · simp

/-- H1 as one update: the error and half-transfer flags of the status cleared, a hook for each when hooks are present. -/
theorem serviceErrors_eq (status : BitVec 5) (r : Half) (s : State) :
    serviceErrors status r s =
      { s with
        dma := { s.dma with sr := s.dma.sr &&& ~~~(status &&& 0b11110) }
        trace :=
          s.trace ++
            (if s.par.hookPresent then
              ([FlagKind.te, .dme, .fe, .ht].filter (hasFlag status)).map (fun k => Event.hook k r)
            else []) } := by
  have flags : ∀ a b : BitVec 5,
      a &&& ~~~(b &&& flagBit .te) &&& ~~~(b &&& flagBit .dme) &&& ~~~(b &&& flagBit .fe) &&&
        ~~~(b &&& flagBit .ht) = a &&& ~~~(b &&& 0b11110) := by decide
  have hooks : ∀ f : FlagKind → Bool,
      (if f .te then [Event.hook .te r] else []) ++ ((if f .dme then [Event.hook .dme r] else []) ++
        ((if f .fe then [Event.hook .fe r] else []) ++ (if f .ht then [Event.hook .ht r] else []))) =
      ([FlagKind.te, .dme, .fe, .ht].filter f).map (fun k => Event.hook k r) := by
    intro f
    cases h0 : f .te <;> cases h1 : f .dme <;> cases h2 : f .fe <;> cases h3 : f .ht <;> simp [h0, h1, h2, h3]
  unfold serviceErrors
  simp only [List.foldl, serviceFlag_eq, flags]
  cases s.par.hookPresent
  · simp
  · simp [hooks, List.append_assoc]

/-- H2's write as one update. -/
theorem clearCompletion_eq (status : BitVec 5) (s : State) :
    clearCompletion status s = { s with dma := { s.dma with sr := s.dma.sr &&& ~~~(status &&& 0b00001) } } := by
  have flag : ∀ a b : BitVec 5, (if hasFlag b .tc then clearFlag a .tc else a) = a &&& ~~~(b &&& 1) := by decide
  have := flag s.dma.sr status
  unfold clearCompletion
  rw [← this]
  split <;> rfl

/-! ### One step of the teardown -/

/-- A step of the teardown changes only flags of the stream, the link, the lines, the sequencer and the trace. -/
theorem teardownStep_keeps {j j' : Nat} {status : BitVec 5} {r : Half} {s t : State}
    (h : teardownStep j status r s = some (j', t)) :
    t.res = s.res ∧ t.fg = s.fg ∧ t.irq = s.irq ∧ t.hd = s.hd ∧ t.mem = s.mem ∧ t.fault = s.fault ∧
    t.refused = s.refused ∧ t.prog = s.prog ∧ t.par = s.par ∧ t.inp = s.inp := by
  unfold teardownStep at h
  split at h
  case h_1 | h_2 =>
    simp only [Option.some.injEq, Prod.mk.injEq] at h
    obtain ⟨-, rfl⟩ := h
    first | rw [serviceErrors_eq] | rw [clearCompletion_eq]
    simp
  case h_4 | h_6 | h_9 =>
    split at h <;> simp only [reduceCtorEq, Option.some.injEq, Prod.mk.injEq] at h
    obtain ⟨-, rfl⟩ := h
    simp
  case h_10 =>
    simp only [Option.some.injEq, Prod.mk.injEq] at h
    obtain ⟨-, rfl⟩ := h
    split <;> simp
  case h_11 => cases h
  all_goals
    simp only [Option.some.injEq, Prod.mk.injEq] at h
    obtain ⟨-, rfl⟩ := h
    simp

/-- A step of the teardown writes nothing of the stream but its flags, and sets none of them. -/
theorem teardownStep_dma {j j' : Nat} {status : BitVec 5} {r : Half} {s t : State}
    (h : teardownStep j status r s = some (j', t)) :
    ∃ sr, t.dma = { s.dma with sr := sr } ∧ ∀ k, hasFlag sr k = true → hasFlag s.dma.sr k = true := by
  unfold teardownStep at h
  split at h
  case h_1 | h_2 =>
    simp only [Option.some.injEq, Prod.mk.injEq] at h
    obtain ⟨-, rfl⟩ := h
    first | rw [serviceErrors_eq] | rw [clearCompletion_eq]
    exact ⟨_, rfl, fun _ hk => hasFlag_clearFlags hk⟩
  case h_4 | h_6 | h_9 =>
    split at h <;> simp only [reduceCtorEq, Option.some.injEq, Prod.mk.injEq] at h
    obtain ⟨-, rfl⟩ := h
    exact ⟨s.dma.sr, rfl, fun _ hk => hk⟩
  case h_10 =>
    simp only [Option.some.injEq, Prod.mk.injEq] at h
    obtain ⟨-, rfl⟩ := h
    exact ⟨s.dma.sr, by split <;> simp, fun _ hk => hk⟩
  case h_11 => cases h
  all_goals
    simp only [Option.some.injEq, Prod.mk.injEq] at h
    obtain ⟨-, rfl⟩ := h
    exact ⟨s.dma.sr, by simp, fun _ hk => hk⟩

/-- What a handler step can be: a hold, the return, or a step of the teardown. -/
theorem handlerStep_cases (s : State) :
    handlerStep s = s ∨
    (∃ status r, s.hd = .active 11 status r ∧ handlerStep s = s.returnFromInterrupt) ∨
    (∃ j status r j' t, s.hd = .active j status r ∧ j ≠ 11 ∧ teardownStep j status r s = some (j', t) ∧
      handlerStep s = { t with hd := .active j' status r }) := by
  unfold handlerStep
  split
  · exact .inl rfl
  · rename_i j status r hj
    split
    · subst_vars; exact .inr (.inl ⟨status, r, hj, rfl⟩)
    · split
      · exact .inl rfl
      · rename_i j' t ht
        exact .inr (.inr ⟨j, status, r, j', t, hj, ‹_›, ht, rfl⟩)

/-! ### SEQ.HANDSHAKE -/

/-- What one micro-step of SEQ.HANDSHAKE can be. -/
theorem handshake_next {s t : State} (h : execSeqHandshake s = .next t) :
    t = s ∨ (s.fg.k = 1 ∧ t = s.saveAndMask.advance 1 false) ∨
    (s.fg.k = 2 ∧
      t = ({ s with fg := { s.fg with status := s.dma.sr &&& s.dma.ie, remaining := s.dma.ndt } } : State).advance 1
        false) ∨
    (s.fg.k = 13 ∧ t = s.restoreMask.advance 1 true) ∨
    (∃ j' u, 3 ≤ s.fg.k ∧ s.fg.k ≠ 13 ∧ teardownStep (s.fg.k - 2) s.fg.status s.fg.remaining s = some (j', u) ∧
      t = { u with fg := { u.fg with k := j' + 2 } }) := by
  unfold execSeqHandshake at h
  split at h
  · exact .inr (.inl ⟨‹_›, by simpa using h.symm⟩)
  split at h
  · exact .inr (.inr (.inl ⟨‹_›, by simpa using h.symm⟩))
  split at h
  · exact .inr (.inr (.inr (.inl ⟨‹_›, by simpa using h.symm⟩)))
  split at h
  · exact .inl (by simpa using h.symm)
  split at h
  · exact .inl (by simpa using h.symm)
  · exact .inr (.inr (.inr (.inr ⟨_, _, by omega, ‹_›, ‹_›, by simpa using h.symm⟩)))

/-- Inside SEQ.HANDSHAKE no micro-step of a list is still to come. -/
theorem State.pending_handshake {s : State} (h : s.fetch = .command .seqHandshake) : s.pending = [] := by
  unfold State.pending
  rw [h]
  simp [Instr.laterSteps]

/-! ### The shifter -/

/-- A shifter step changes only the link, the trace and the inputs. -/
theorem shifterStep_keeps (s : State) :
    (shifterStep s).res = s.res ∧ (shifterStep s).fg = s.fg ∧ (shifterStep s).irq = s.irq ∧
    (shifterStep s).dma = s.dma ∧ (shifterStep s).line = s.line ∧ (shifterStep s).hd = s.hd ∧
    (shifterStep s).seq = s.seq ∧ (shifterStep s).mem = s.mem ∧ (shifterStep s).fault = s.fault ∧
    (shifterStep s).refused = s.refused ∧ (shifterStep s).prog = s.prog ∧ (shifterStep s).par = s.par := by
  unfold shifterStep
  split
  · split
    · simp only [State.emitFrame, State.receive]; split <;> simp
    · simp
    · simp
  · simp

/-! ### Whole-machine readings of a teardown step -/

/-- A step of the teardown that moves the sequencer is H9, and moves it to Idle (R202). -/
theorem teardownStep_seq {j j' : Nat} {v : BitVec 5} {r : Half} {s u : State}
    (h : teardownStep j v r s = some (j', u)) (hne : u.seq.state ≠ s.seq.state) : j = 9 ∧ u.seq.state = .idle := by
  unfold teardownStep at h
  split at h
  all_goals first | (split at h) | skip
  all_goals simp only [reduceCtorEq, Option.some.injEq, Prod.mk.injEq] at h
  all_goals obtain ⟨-, rfl⟩ := h
  all_goals first | exact ⟨rfl, rfl⟩ | skip
  all_goals refine absurd ?_ hne
  all_goals first | rfl | (rw [serviceErrors_eq]) | (rw [clearCompletion_eq]) | (simp)

/-- A step of the teardown that writes another profile is H7 (R243). -/
theorem teardownStep_profile {j j' : Nat} {v : BitVec 5} {r : Half} {s u : State}
    (h : teardownStep j v r s = some (j', u)) (hne : u.spi.profile ≠ s.spi.profile) : j = 7 := by
  unfold teardownStep at h
  split at h
  all_goals first | (split at h) | skip
  all_goals simp only [reduceCtorEq, Option.some.injEq, Prod.mk.injEq] at h
  all_goals obtain ⟨-, rfl⟩ := h
  all_goals first | exact rfl | skip
  all_goals refine absurd ?_ hne
  all_goals first | rfl | (rw [serviceErrors_eq]) | (rw [clearCompletion_eq]) | (simp)

/-- What a teardown step does to SPE: H8 sets it, H5 clears it, every other step keeps it (R243). -/
theorem teardownStep_spe {j j' : Nat} {v : BitVec 5} {r : Half} {s u : State}
    (h : teardownStep j v r s = some (j', u)) :
    (j = 8 ∧ j' = 9 ∧ u.spi.spe = true) ∨ (j = 5 ∧ j' = 6 ∧ u.spi.spe = false ∧ u.seq = s.seq) ∨
    (j ≠ 5 ∧ j ≠ 8 ∧ u.spi.spe = s.spi.spe) := by
  unfold teardownStep at h
  split at h
  all_goals first | (split at h) | skip
  all_goals simp only [reduceCtorEq, Option.some.injEq, Prod.mk.injEq] at h
  all_goals obtain ⟨rfl, rfl⟩ := h
  all_goals first | exact .inl ⟨rfl, rfl, rfl⟩ | exact .inr (.inl ⟨rfl, rfl, rfl, rfl⟩) | skip
  all_goals refine .inr (.inr ⟨by decide, by decide, ?_⟩)
  all_goals first | rfl | rw [serviceErrors_eq] | rw [clearCompletion_eq] | simp

/-! ### The canonical form of memory -/

/-- A micro-step keeps the canonical form of memory (R42). -/
theorem exec_keeps_memory_form {i : Instr} {s t : State} (h : exec i s = .next t) (hw : Memory.wf s.mem = true) :
    Memory.wf t.mem = true := by
  cases exec_next h with
  | hold h => exact h ▸ hw
  | start hk pass h =>
    rw [h]
    simp only [State.advance_mem]
    cases i
    case memWr16 v a => exact Memory.wf_storeBytes hw
    case irqEnable => simp only [startEffect, State.enableSource]; split <;> exact hw
    case lineSet => simpa [startEffect] using hw
    case lineClear => simpa [startEffect] using hw
    case dmaConfig => simp only [startEffect]; split <;> exact hw
    all_goals exact hw
  | later n m hk hm hr h =>
    obtain ⟨-, -, -, -, -, -, kmem, -⟩ := Micro.act_keeps m s
    rw [h]; simpa [kmem] using hw
  | halt hi hk h => exact h ▸ hw
  | handshake hi h =>
    rcases handshake_next h with rfl | ⟨hk, rfl⟩ | ⟨hk, rfl⟩ | ⟨hk, rfl⟩ | ⟨j', u, h3, -, hu, rfl⟩
    · exact hw
    · exact hw
    · exact hw
    · exact hw
    · have := teardownStep_keeps hu; simpa [this] using hw

/-- A turn of any agent keeps the canonical form of memory (R42). -/
theorem turnStep_keeps_memory_form {τ : Turn} {s t : State} (hw : Memory.wf s.mem = true)
    (h : turnStep τ s = .next t) : Memory.wf t.mem = true := by
  cases τ <;> simp only [turnStep, Host.Outcome.next.injEq] at h
  · rcases foregroundStep_next h with ⟨rfl, -⟩ | ⟨-, hd, i, hf, h⟩
    · exact hw
    · exact exec_keeps_memory_form h hw
  · subst h
    rcases handlerStep_cases s with e | ⟨status, r, hj, e⟩ | ⟨j, status, r, j', t, hj, hne, ht, e⟩ <;> rw [e]
    · exact hw
    · exact hw
    · have := teardownStep_keeps ht; simpa [this] using hw
  · subst h; unfold entryStep; split <;> exact hw
  · subst h; unfold fetchStep; split
    · unfold State.fetchElement; simp only; split <;> exact hw
    · exact hw
  · unfold handoffStep at h
    split at h
    · split at h
      · cases h
      · simp only [Host.Outcome.next.injEq] at h; subst h
        unfold State.complete State.halfTransfer State.handElement
        split <;> split <;> exact hw
    · simp only [Host.Outcome.next.injEq] at h; exact h ▸ hw
  · subst h; have := shifterStep_keeps s; simpa [this] using hw
  · subst h; unfold errorStep; split
    · simp only; split <;> simpa using hw
    · exact hw

end Sys2Proof.Machine
end

