-- ==== Sys2Proof/Laws/Schedule.lean ====
section
/-! SUPPORT. The schedule (spec/00_scope.md R6, R9): what a step does to it, how it plays back, that every round ends, and that no
fair schedule is left out (log 4, log 16). -/

namespace Sys2Proof.Machine

/-! ### One turn -/

/-- The part of the inputs that the schedule reads: the listed turns and the round. -/
def Inputs.plan (q : Inputs) : List Turn × Nat := (q.turns, q.turnAt)

@[simp] theorem Inputs.nextTurn_bytes (free : Nat → List Turn) (q : Inputs) : (q.nextTurn free).2.bytes = q.bytes := by
  unfold Inputs.nextTurn
  split
  · rfl
  · split <;> rfl

@[simp] theorem State.drawByte_plan (s : State) : s.drawByte.2.inp.plan = s.inp.plan := by
  unfold State.drawByte
  split <;> rfl

@[simp] theorem State.deliverRequest_plan (s : State) : s.deliverRequest.inp.plan = s.inp.plan := by
  unfold State.deliverRequest
  split
  · rfl
  · split
    · rfl
    · exact s.drawByte_plan

@[simp] theorem State.endOfStep_plan (s : State) : s.endOfStep.inp.plan = s.inp.plan := by
  simp only [State.endOfStep]
  split
  · exact s.deliverRequest_plan
  · rfl

/-- A command leaves the inputs alone: the foreground draws nothing. -/
theorem exec_inp {i : Instr} {s t : State} (h : exec i s = .next t) : t.inp = s.inp := by
  cases exec_next h with
  | hold h => rw [h]
  | start hk pass h =>
    rw [h]
    simp only [State.advance_inp]
    cases i
    case irqEnable => simp only [startEffect, State.enableSource]; split <;> rfl
    case lineSet => simp [startEffect]
    case lineClear => simp [startEffect]
    case dmaConfig => simp only [startEffect]; split <;> rfl
    all_goals rfl
  | later n m hk hm hr h =>
    obtain ⟨-, -, -, -, kinp, -⟩ := Micro.act_keeps m s
    rw [h, State.advance_inp, kinp]
  | halt hi hk h => rw [h]; rfl
  | handshake hi h =>
    rcases handshake_next h with rfl | ⟨-, rfl⟩ | ⟨-, rfl⟩ | ⟨-, rfl⟩ | ⟨j', u, -, -, hu, rfl⟩
    · rfl
    · rfl
    · rfl
    · rfl
    · obtain ⟨-, -, -, -, -, -, -, -, -, kinp⟩ := teardownStep_keeps hu
      exact kinp

/-- A turn of any agent leaves the schedule alone. -/
theorem turnStep_plan {τ : Turn} {s t : State} (h : turnStep τ s = .next t) : t.inp.plan = s.inp.plan := by
  cases τ <;> simp only [turnStep, Host.Outcome.next.injEq] at h
  case fg =>
    rcases foregroundStep_next h with ⟨rfl, -⟩ | ⟨-, -, i, -, h⟩
    · rfl
    · rw [exec_inp h]
  case hd =>
    subst h
    rcases handlerStep_cases s with e | ⟨status, r, -, e⟩ | ⟨j, status, r, j', t, -, -, ht, e⟩ <;> rw [e]
    · rfl
    · obtain ⟨-, -, -, -, -, -, -, -, -, kinp⟩ := teardownStep_keeps ht
      exact congrArg Inputs.plan kinp
  case ie => subst h; unfold entryStep; split <;> rfl
  case deFetch =>
    subst h; unfold fetchStep State.fetchElement
    split
    · simp only; split <;> rfl
    · rfl
  case deHandoff =>
    unfold handoffStep at h
    split at h
    · split at h
      · cases h
      · simp only [Host.Outcome.next.injEq] at h
        subst h
        unfold State.complete State.halfTransfer State.handElement
        split <;> split <;> rfl
    · simp only [Host.Outcome.next.injEq] at h; rw [h]
  case sh =>
    subst h; unfold shifterStep
    split
    · split
      · simp only [State.emitFrame, State.receive]
        split
        · exact State.drawByte_plan _
        · rfl
      · rfl
      · rfl
    · rfl
  case env =>
    subst h; unfold errorStep
    split
    · simp only
      split
      · simp
      · simp
    · rfl

/-- A step uses up one turn of the schedule and changes nothing else of it. -/
theorem step_plan {s t : State} (h : step s = .next t) :
    t.inp.plan = (s.inp.nextTurn Config.freeTurns).2.plan := by
  have e := (step_next h).2.2
  subst e
  unfold liveStep State.settle
  split
  · rename_i u hu
    rw [State.endOfStep_plan, turnStep_plan hu]
    rfl
  · rfl
  · rfl

/-! ### A schedule played back -/

/-- The inputs after n turns. -/
def Inputs.after (free : Nat → List Turn) : Nat → Inputs → Inputs
  | 0, q => q
  | n + 1, q => (q.after free n).nextTurn free |>.2

/-- The turn after n turns. -/
def Inputs.turnAfter (free : Nat → List Turn) (q : Inputs) (n : Nat) : Turn := ((q.after free n).nextTurn free).1

/-- A turn is chosen by the plan alone. -/
theorem Inputs.nextTurn_congr {free : Nat → List Turn} {p q : Inputs} (h : p.plan = q.plan) :
    (p.nextTurn free).1 = (q.nextTurn free).1 ∧ (p.nextTurn free).2.plan = (q.nextTurn free).2.plan := by
  obtain ⟨pt, pa, pb, pc⟩ := p
  obtain ⟨qt, qa, qb, qc⟩ := q
  simp only [Inputs.plan, Prod.mk.injEq] at h
  obtain ⟨rfl, rfl⟩ := h
  cases pt
  · cases hf : free pa <;> simp [Inputs.nextTurn, Inputs.plan, hf]
  · exact ⟨rfl, rfl⟩

/-- The turns of a run are its first state's schedule played back, whatever the steps do. -/
theorem run_turn {run : Nat → State} (h : isRun run) (n : Nat) :
    (run n).takeTurn.1 = (run 0).inp.turnAfter Config.freeTurns n := by
  have key : (run n).inp.plan = ((run 0).inp.after Config.freeTurns n).plan := by
    induction n with
    | zero => rfl
    | succ n ih => rw [step_plan (h n)]; exact (Inputs.nextTurn_congr ih).2
  exact (Inputs.nextTurn_congr key).1

/-- Listed turns are played first. -/
theorem Inputs.after_listed (free : Nat → List Turn) (q : Inputs) (ts us : List Turn) (h : q.turns = ts ++ us) :
    (q.after free ts.length) = { q with turns := us } ∧
    ∀ (n : Nat) (hn : n < ts.length), q.turnAfter free n = ts[n] := by
  induction ts using List.reverseRecOn generalizing us with
  | nil => exact ⟨by rw [← show q.turns = us from h]; rfl, by simp⟩
  | append_singleton ts t ih =>
    obtain ⟨ha, hb⟩ := ih (t :: us) (by simpa using h)
    constructor
    · rw [List.length_append]
      show ((q.after free ts.length).nextTurn free).2 = _
      rw [ha]
      rfl
    · intro n hn
      rw [List.length_append] at hn
      by_cases hlt : n < ts.length
      · rw [hb n hlt, List.getElem_append_left hlt]
      · obtain rfl : n = ts.length := by simp at hn; omega
        unfold Inputs.turnAfter
        rw [ha]
        simp [Inputs.nextTurn]

theorem Inputs.after_succ (free : Nat → List Turn) (q : Inputs) (n : Nat) :
    q.after free (n + 1) = (q.nextTurn free).2.after free n := by
  induction n with
  | zero => rfl
  | succ n ih => rw [Inputs.after, ih, Inputs.after]

theorem Inputs.after_add (free : Nat → List Turn) (q : Inputs) (m n : Nat) :
    q.after free (m + n) = (q.after free m).after free n := by
  induction n with
  | zero => rfl
  | succ n ih => rw [← Nat.add_assoc, Inputs.after, ih, Inputs.after]

theorem Inputs.turnAfter_add (free : Nat → List Turn) (q : Inputs) (m n : Nat) :
    q.turnAfter free (m + n) = (q.after free m).turnAfter free n := by
  rw [Inputs.turnAfter, Inputs.after_add, Inputs.turnAfter]

/-- One round: with nothing listed, its free turns and its closing turn are played, and the next round begins. -/
theorem Inputs.round (free : Nat → List Turn) (q : Inputs) (hq : q.turns = []) (round : List Turn)
    (hr : round = free q.turnAt ++ [fairTurn q.turnAt]) :
    q.after free round.length = { q with turnAt := q.turnAt + 1 } ∧
    ∀ (n : Nat) (hn : n < round.length), q.turnAfter free n = round[n] := by
  obtain ⟨qt, qa, qb, qc⟩ := q
  obtain rfl : qt = [] := hq
  simp only at hr ⊢
  have first : (Inputs.mk [] qa qb qc).nextTurn free = (Inputs.mk round (qa + 1) qb qc).nextTurn free := by
    rw [hr]
    cases hf : free qa <;> simp [Inputs.nextTurn, hf]
  have later (n : Nat) :
      (Inputs.mk [] qa qb qc).after free (n + 1) = (Inputs.mk round (qa + 1) qb qc).after free (n + 1) := by
    rw [Inputs.after_succ, Inputs.after_succ, first]
  obtain ⟨hend, hturn⟩ := Inputs.after_listed free ⟨round, qa + 1, qb, qc⟩ round [] (by simp)
  have hlen : round.length = (free qa).length + 1 := by rw [hr]; simp
  constructor
  · rw [hlen, later, ← hlen, hend]
  · intro n hn
    rw [← hturn n hn]
    cases n with
    | zero => exact congrArg Prod.fst first
    | succ n => unfold Inputs.turnAfter; rw [later]

/-- No fair schedule is left out: each is the playback of some choice of the free turns, from the schedule of a fresh machine. -/
theorem fair_complete (σ : Nat → Turn) (h : fairSchedule σ) (bytes : List Byte) (byteAt : Nat) :
    ∃ free : Nat → List Turn, ∀ n : Nat, (Inputs.mk [] 0 bytes byteAt).turnAfter free n = σ n := by
  have covered (k : Nat) : fairTurn k ≠ .env := by unfold fairTurn; split <;> simp
  choose next hle hnext using fun k start => h (fairTurn k) (covered k) start
  let start : Nat → Nat := fun k => Nat.rec 0 (fun k at_ => next k at_ + 1) k
  have start_succ (k : Nat) : start (k + 1) = next k (start k) + 1 := rfl
  let free : Nat → List Turn := fun k => (List.range' (start k) (next k (start k) - start k)).map σ
  refine ⟨free, ?_⟩
  have round_eq (k : Nat) :
      free k ++ [fairTurn k] = (List.range' (start k) (start (k + 1) - start k)).map σ := by
    have hs : start (k + 1) - start k = next k (start k) - start k + 1 := by
      have := hle k (start k); rw [start_succ]; omega
    rw [hs, List.range'_concat, List.map_append]
    have he : start k + 1 * (next k (start k) - start k) = next k (start k) := by
      have := hle k (start k); omega
    simp only [List.map_cons, List.map_nil, he, hnext, free]
  have mono (k : Nat) : start k < start (k + 1) := by have := hle k (start k); rw [start_succ]; omega
  have played (k : Nat) : (Inputs.mk [] 0 bytes byteAt).after free (start k) = ⟨[], k, bytes, byteAt⟩ := by
    induction k with
    | zero => rfl
    | succ k ih =>
      have hr := (Inputs.round free ⟨[], k, bytes, byteAt⟩ rfl _ (round_eq k).symm).1
      rw [List.length_map, List.length_range'] at hr
      rw [show start (k + 1) = start k + (start (k + 1) - start k) by have := mono k; omega, Inputs.after_add, ih, hr]
  intro n
  obtain ⟨k, hk, hk'⟩ : ∃ k, start k ≤ n ∧ n < start (k + 1) := by
    have unbounded (k : Nat) : k ≤ start k := by
      induction k with
      | zero => exact Nat.zero_le _
      | succ k ih => have := mono k; omega
    have hex : ∃ k, n < start k := ⟨n + 1, by have := unbounded (n + 1); omega⟩
    cases hf : Nat.find hex with
    | zero => have := Nat.find_spec hex; rw [hf] at this; exact absurd this (Nat.not_lt_zero n)
    | succ k =>
      refine ⟨k, ?_, hf ▸ Nat.find_spec hex⟩
      exact Nat.le_of_not_lt (Nat.find_min hex (by omega))
  have hr := (Inputs.round free ⟨[], k, bytes, byteAt⟩ rfl _ (round_eq k).symm).2 (n - start k)
    (by rw [List.length_map, List.length_range']; omega)
  rw [show n = start k + (n - start k) by omega, Inputs.turnAfter_add, played, hr]
  simp

end Sys2Proof.Machine
end

