-- ==== Sys2Proof/Tests/Slice0.lean ====
section
/-! SUPPORT. The model's own tests. Expected results come from the spec: the worked examples and vectors of
spec/95_test_vectors.md under its configuration TC0 (their ids stand in the comments), the encodings of spec/30_encoding.md, and hand
calculation from the rules. Then a witness for the hypotheses of each statement of Certificates/Slice0/Obligations.lean. -/

namespace Sys2Proof.Tests

open Sys2Proof.Machine

/-! ## Well-formed commands: what the check refuses (R96, R102) -/

/-- The control word of the pipeline descriptor (CFG5000 of spec/95_test_vectors.md 2.2). -/
def cfgCtrl : Ctrl := ⟨3, 1, 1, true, 0, 0b11101⟩

theorem test_wf_accepts_cfg5000 : (Instr.dmaConfig 2 cfgCtrl 0x20000000 0x50000000 5000).wf = true := by decide

/-- ESIZE 3. -/
theorem test_wf_refuses_esize3 :
    (Instr.dmaConfig 2 { cfgCtrl with esize := 3 } 0x20000000 0x50000000 5000).wf = false := by decide

/-- BURST 2. -/
theorem test_wf_refuses_burst2 :
    (Instr.dmaConfig 2 { cfgCtrl with burst := 2 } 0x20000000 0x50000000 5000).wf = false := by decide

/-- BURST 3. -/
theorem test_wf_refuses_burst3 :
    (Instr.dmaConfig 2 { cfgCtrl with burst := 3 } 0x20000000 0x50000000 5000).wf = false := by decide

/-! ## Decoding: each command from a word written out from R95 to R98, and the rejected packets of the vectors -/

theorem test_decode_ctlNop : decode [0x00000000] = .command .ctlNop := by decide

theorem test_decode_ctlHalt : decode [0x01000000] = .command .ctlHalt := by decide

theorem test_decode_ctlWaitReady : decode [0x02050000] = .command (.ctlWaitReady 5) := by decide

theorem test_decode_ctlWaitIdle : decode [0x03000000] = .command .ctlWaitIdle := by decide

theorem test_decode_cpuIrqOff : decode [0x08000000] = .command .cpuIrqOff := by decide

theorem test_decode_cpuIrqOn : decode [0x09000000] = .command .cpuIrqOn := by decide

theorem test_decode_irqEnable : decode [0x0A970000] = .command (.irqEnable 0x97) := by decide

theorem test_decode_lineSet :
    decode [0x0C000000] = .command (.lineSet .cs) ∧ decode [0x0C010000] = .command (.lineSet .dc) ∧
    decode [0x0C020000] = .command (.lineSet .rst) := by decide

theorem test_decode_lineClear :
    decode [0x0D000000] = .command (.lineClear .cs) ∧ decode [0x0D010000] = .command (.lineClear .dc) ∧
    decode [0x0D020000] = .command (.lineClear .rst) := by decide

theorem test_decode_memWr16 : decode [0x0E00F812, 0x2001FFFE] = .command (.memWr16 0xF812 0x2001FFFE) := by decide

/-- CFG5000 (2.2): CTRL 0x001D0153 is CHSEL 3, ESIZE 1, BURST 1, FEN 1, FTH 0, IE 0b11101. -/
theorem test_decode_dmaConfig :
    decode [0x10020000, 0x001D0153, 0x20000000, 0x50000000, 0x00001388] =
      .command (.dmaConfig 2 cfgCtrl 0x20000000 0x50000000 5000) := by decide

/-- FTH in bits 10:9, and the five interrupt enables one by one (R96, R99). -/
theorem test_decode_dmaConfig_fields :
    decode [0x10070000, 0x00020405, 0x00000004, 0x00000008, 0x0000FFFF] =
      .command (.dmaConfig 7 ⟨5, 0, 0, false, 2, 0b00010⟩ 4 8 65535) := by decide

theorem test_decode_dmaStart : decode [0x11060000] = .command (.dmaStart 6) := by decide

theorem test_decode_dmaDisable : decode [0x12010000] = .command (.dmaDisable 1) := by decide

theorem test_decode_dmaIsReady : decode [0x13040000] = .command (.dmaIsReady 4) := by decide

theorem test_decode_dmaClear : decode [0x14030016] = .command (.dmaClear 3 0b10110) := by decide

theorem test_decode_dmaStatus : decode [0x15020000] = .command (.dmaStatus 2) := by decide

theorem test_decode_spiConfig :
    decode [0x20000000] = .command (.spiConfig .command) ∧ decode [0x20010000] = .command (.spiConfig .streaming) := by
  decide

theorem test_decode_spiEnable : decode [0x21000000] = .command .spiEnable := by decide

theorem test_decode_spiDisable : decode [0x22000000] = .command .spiDisable := by decide

theorem test_decode_spiXchg : decode [0x230000A7] = .command (.spiXchg 0xA7) := by decide

theorem test_decode_spiDmaReq : decode [0x24000000] = .command .spiDmaReq := by decide

/-- V1: xs 10, ys 10, xe 109, ye 59. -/
theorem test_decode_seqWindow :
    decode [0x30000000, 0x006D000A, 0x003B000B] = .command (.seqWindow ⟨10, 11, 109, 59⟩) := by decide

theorem test_decode_seqFill : decode [0x31000000, 0x20001234] = .command (.seqFill 0x20001234) := by decide

theorem test_decode_seqFillWin :
    decode [0x32000000, 0x006D000A, 0x003B000B, 0x20001234] = .command (.seqFillWin ⟨10, 11, 109, 59⟩ 0x20001234) := by
  decide

/-- Q16: width 240, height 273. -/
theorem test_decode_seqFillCtr :
    decode [0x33000000, 0x011100F0, 0x20000000] = .command (.seqFillCtr 240 273 0x20000000) := by decide

theorem test_decode_seqHandshake : decode [0x34000000] = .command .seqHandshake := by decide

theorem test_decode_seqState : decode [0x35000000] = .command .seqState := by decide

/-- X2, X3, and the last illegal opcodes of R95 on each side of a group. -/
theorem test_decode_illegal :
    decode [0xFF000000] = .reject .illegal ∧ decode [0x04000000] = .reject .illegal ∧
    decode [0x0B000000] = .reject .illegal ∧ decode [0x0F000000] = .reject .illegal ∧
    decode [0x16000000] = .reject .illegal ∧ decode [0x25000000] = .reject .illegal ∧
    decode [0x36000000] = .reject .illegal := by decide

/-- X4, X5, X15, X22, D24, P-S4, P-S7. -/
theorem test_decode_reserved_header :
    decode [0x00000001] = .reject .reserved ∧ decode [0x0C030000] = .reject .reserved ∧
    decode [0x0E01F800, 0x20000000] = .reject .reserved ∧ decode [0x02080000] = .reject .reserved ∧
    decode [0x14020020] = .reject .reserved ∧ decode [0x20020000] = .reject .reserved ∧
    decode [0x23000100] = .reject .reserved := by decide

/-- D12, D16, D17, D18. -/
theorem test_decode_reserved_operand :
    decode [0x10020000, 0x001D0153, 0x20000000, 0x50000000, 0x00010000] = .reject .reserved ∧
    decode [0x10020000, 0x001D0173, 0x20000000, 0x50000000, 0x00001388] = .reject .reserved ∧
    decode [0x10020000, 0x001D01D3, 0x20000000, 0x50000000, 0x00001388] = .reject .reserved ∧
    decode [0x10020000, 0x001D015B, 0x20000000, 0x50000000, 0x00001388] = .reject .reserved := by decide

/-- X9, X10, and the order of R92: a missing operand is found before a reserved bit. -/
theorem test_decode_pcEnd :
    decode [0x0E00F800] = .reject .pcEnd ∧ decode [] = .reject .pcEnd ∧ decode [0x0E01F800] = .reject .pcEnd := by
  decide

/-- The host's bit numbering: the second word's bits count on from the first word's. -/
theorem test_decodeTableWord :
    decodeTableWord 64 0x200000000E00F800 = some (.memWr16 0xF800 0x20000000) ∧
    decodeTableWord 32 0x11020000 = some (.dmaStart 2) ∧ decodeTableWord 32 0xFF000000 = none := by decide

/-! ## Start states and outcomes -/

/-- S0 of the vectors. -/
abbrev s0 : State := State.launch Config.tc0 [] []

/-- SB of the vectors. -/
def sb : State :=
  { s0 with irq := { s0.irq with srcEn := true }, spi := { s0.spi with profile := .command, spe := true } }

/-- SS of the vectors. -/
def ss : State := { sb with spi := { sb.spi with profile := .streaming } }

/-- The outcome is a next state with the property. -/
def nextIs (o : Outcome) (p : State → Bool) : Bool :=
  match o with
  | .next t => p t
  | .fault _ | .refused _ => false

/-- The outcome is this fault. -/
def faultIs (o : Outcome) (f : Fault) : Bool :=
  match o with
  | .fault g => g == f
  | .next _ | .refused _ => false

/-- The outcome is this refusal. -/
def refusedIs (o : Outcome) (r : Refusal) : Bool :=
  match o with
  | .refused q => q == r
  | .next _ | .fault _ => false

/-- The descriptor of CFG5000 in the stream, in the given state. -/
def cfgDma (st : DmaState) (n : Half) : Dma :=
  ⟨st = .running, st, 3, .half, .four, true, 0, 0b11101, 0x20000000, 0x50000000, n, n, 0, [], 0, 0, false⟩

/-- The stream after D1 and D3. -/
def armed : State := { s0 with dma := cfgDma .armed 5000 }

@[inherit_doc armed] def running : State := { s0 with dma := cfgDma .running 5000 }

/-- The sequencer in a state, its window that of V1. -/
def withSeq (s : State) (q : SeqState) : State := { s with seq := ⟨q, ⟨10, 10, 109, 59⟩, 5000⟩ }

/-- At micro-step k of the command. -/
def atStep (s : State) (k : Nat) : State := { s with fg := { s.fg with k := k } }

/-! ## Control and collaborators -/

/-- X1. -/
theorem test_ctlNop : nextIs (exec .ctlNop s0) (fun t => t.fg.pc == 1 && t.fg.k == 1 && t.trace.isEmpty) = true := by
  decide

/-- X25: the state is final. -/
theorem test_ctlHalt :
    nextIs (exec .ctlHalt s0) (fun t => t.fg.halted && t.trace == [.halt] && t.fg.pc == 0 && t.final) = true := by
  decide

/-- X20, X21: µ2 ends, a wrong stream faults at µ1. -/
theorem test_ctlWaitReady :
    nextIs (exec (.ctlWaitReady 2) (atStep s0 2)) (fun t => t.fg.pc == 1) = true ∧
    faultIs (exec (.ctlWaitReady 1) s0) .badStream = true := by decide

/-- X23, X24. -/
theorem test_ctlWaitIdle :
    nextIs (exec .ctlWaitIdle (atStep s0 2)) (fun t => t.fg.pc == 1) = true ∧
    nextIs (exec .ctlWaitIdle (atStep (withSeq sb .windowSet) 2)) (fun t => t.fg.pc == 0 && t.fg.k == 2) = true := by
  decide

/-- X18: bit 15 of the block status word. -/
theorem test_cpuIrqOff : nextIs (exec .cpuIrqOff s0) (fun t => t.blockWord == 0x00008000) = true := by decide

/-- X19. -/
theorem test_cpuIrqOn :
    nextIs (exec .cpuIrqOn { s0 with irq := ⟨true, false⟩ }) (fun t => t.irq == ⟨false, false⟩) = true := by decide

/-- X16, X17. -/
theorem test_irqEnable :
    nextIs (exec (.irqEnable 7) s0) (fun t => t.blockWord == 0x00010000) = true ∧
    nextIs (exec (.irqEnable 6) s0) (fun t => t.blockWord == 0) = true := by decide

/-- X6, X8. -/
theorem test_lineSet :
    nextIs (exec (.lineSet .cs) s0) (fun t => t.blockWord == 0x00001000) = true ∧
    nextIs (exec (.lineSet .rst) s0) (fun t => t.blockWord == 0x00004000) = true := by decide

/-- X7, from CS = 1 with the other two lines set. -/
theorem test_lineClear :
    nextIs (exec (.lineClear .cs) { s0 with line := ⟨true, true, true⟩ }) (fun t => t.line == ⟨false, true, true⟩) =
      true := by decide

/-- X11, X14: the low byte lies lower under TC0's little order; the last admitted half-word. -/
theorem test_memWr16 :
    nextIs (exec (.memWr16 0xF800 0x20000000) s0) (fun t => t.mem == [(0x20000001, 0xF8)] && t.fg.pc == 2) = true ∧
    nextIs (exec (.memWr16 0x1234 0x2001FFFE) s0)
      (fun t => t.mem == [(0x2001FFFE, 0x34), (0x2001FFFF, 0x12)]) = true := by decide

/-- X12, X13. -/
theorem test_memWr16_faults :
    faultIs (exec (.memWr16 0x1234 0x20000001) s0) .align = true ∧
    faultIs (exec (.memWr16 0x1234 0x20020000) s0) .mem = true := by decide

/-! ## The DMA stream -/

/-- D1, D19. -/
theorem test_dmaConfig :
    nextIs (exec (.dmaConfig 2 cfgCtrl 0x20000000 0x50000000 5000) s0)
      (fun t => t.dma == cfgDma .armed 5000 && t.fg.pc == 5) = true ∧
    refusedIs (exec (.dmaConfig 2 cfgCtrl 0x20000000 0x50000004 5000) s0) .dst = true := by decide

/-- D7, D20, D13, D15: the busy check comes before the destination's, then alignment, then the burst. -/
theorem test_dmaConfig_faults :
    faultIs (exec (.dmaConfig 2 cfgCtrl 0x20000000 0x50000000 5000) running) .dmaBusy = true ∧
    faultIs (exec (.dmaConfig 2 cfgCtrl 0x20000000 0x50000004 5000) running) .dmaBusy = true ∧
    faultIs (exec (.dmaConfig 2 cfgCtrl 0x20000001 0x50000000 5000) s0) .align = true ∧
    faultIs (exec (.dmaConfig 2 { cfgCtrl with fen := false } 0x20000000 0x50000000 5000) s0) .burst = true := by
  decide

/-- D3. -/
theorem test_dmaStart : nextIs (exec (.dmaStart 2) armed) (fun t => t.dma == cfgDma .running 5000) = true := by decide

/-- D8, D9, D10, D21. -/
theorem test_dmaStart_faults :
    faultIs (exec (.dmaStart 2) running) .dmaBusy = true ∧ faultIs (exec (.dmaStart 2) s0) .dmaNotArmed = true ∧
    faultIs (exec (.dmaStart 2) { s0 with dma := cfgDma .armed 0 }) .zeroCount = true ∧
    faultIs (exec (.dmaStart 1) s0) .badStream = true := by decide

/-- D25, D26. -/
theorem test_dmaDisable :
    nextIs (exec (.dmaDisable 2) armed) (fun t => t.dma == { cfgDma .armed 5000 with state := .idle } && t.fg.k == 2) =
      true ∧
    refusedIs (exec (.dmaDisable 2) running) .cancel = true := by decide

/-- D5, D6. -/
theorem test_dmaIsReady :
    nextIs (exec (.dmaIsReady 2) running) (fun t => t.res == 0 && t.trace == [.result 0]) = true ∧
    nextIs (exec (.dmaIsReady 2) s0) (fun t => t.res == 1 && t.trace == [.result 1]) = true := by decide

/-- D22. -/
theorem test_dmaClear :
    nextIs (exec (.dmaClear 2 0x01) { s0 with dma := { s0.dma with sr := 0b00101 } }) (fun t => t.dma.sr == 0b00100) =
      true := by decide

/-- D2, D4. -/
theorem test_dmaStatus :
    nextIs (exec (.dmaStatus 2) armed) (fun t => t.res == 0x13880200) = true ∧
    nextIs (exec (.dmaStatus 2) running) (fun t => t.res == 0x13880500) = true := by decide

/-- H2's third handoff (NDT_CFG 5): the counter falls to 2 = 5 div 2, HT is set and TC is not. -/
theorem test_handoff_half :
    nextIs
      (handoffStep
        { ss with
          dma := { cfgDma .running 5 with ndt := 3, handed := 2, fetched := 3, fifo := [0xABCD], req := true } })
      (fun t => t.dma.sr == 0b00010 && t.dma.ndt == 2 && t.spi.txBuf == some (.f16 0xABCD) && t.dma.en) = true := by
  decide

/-- H4 (NDT_CFG 1): HT and TC in one handoff; P-S16: a byte element faults F_WIDTH. -/
theorem test_handoff_last :
    nextIs (handoffStep { ss with dma := { cfgDma .running 1 with fetched := 1, fifo := [7], req := true } })
      (fun t => t.dma.sr == 0b00011 && t.dma.state == .complete && !t.dma.en) = true ∧
    faultIs
      (handoffStep
        { ss with dma := { cfgDma .running 3 with esize := .byte, fetched := 1, fifo := [7], req := true } })
      .width = true := by decide

/-- E1: the fetch of element 2, at 0x20020000, is not admitted. -/
theorem test_fetch_unadmitted :
    (fetchStep { ss with dma := { cfgDma .running 4 with src := 0x2001FFFC, fetched := 2, fifo := [1, 2] } }).dma =
      { cfgDma .running 4 with
        src := 0x2001FFFC, fetched := 2, fifo := [], en := false, state := .aborted, sr := 0b00100 } := by decide

/-- E3, E4, E5: the draws k = DME (1) without stop, k = FE (2) with stop, k = TE (0). -/
theorem test_error_step :
    (errorStep { running with inp := ⟨[], 0, [1, 0], 0⟩ }).dma = { cfgDma .running 5000 with sr := 0b01000 } ∧
    (errorStep { running with inp := ⟨[], 0, [2, 1], 0⟩ }).dma =
      { cfgDma .running 5000 with sr := 0b10000, en := false, state := .aborted } ∧
    (errorStep { running with inp := ⟨[], 0, [0, 0], 0⟩ }).dma =
      { cfgDma .running 5000 with sr := 0b00100, en := false, state := .aborted } := by decide

/-! ## The link -/

/-- P-S2, P-S3. -/
theorem test_spiConfig :
    nextIs (exec (.spiConfig .command) s0) (fun t => t.blockWord == 0x00000010) = true ∧
    faultIs (exec (.spiConfig .command) sb) .spiEnabled = true := by decide

/-- P-S1, and SB reads 0x00010110 in SEQ.STATE once enabled. -/
theorem test_spiEnable :
    faultIs (exec .spiEnable s0) .spiUnconfigured = true ∧
    nextIs (exec .spiEnable { sb with spi := { sb.spi with spe := false } }) (fun t => t.blockWord == 0x00010110) =
      true := by decide

/-- P-S14 (µ3 clears SPE), P-S18. -/
theorem test_spiDisable :
    nextIs (exec .spiDisable (atStep sb 3)) (fun t => t.blockWord == 0x00010010 && t.fg.k == 4) = true ∧
    faultIs (exec .spiDisable { ss with dma := cfgDma .running 5000 }) .spiBusy = true := by decide

/-- P-S5: µ1 puts the frame, µ3 takes the received byte. -/
theorem test_spiXchg :
    nextIs (exec (.spiXchg 0x2A) sb) (fun t => t.spi.txBuf == some (.f8 0x2A) && t.fg.k == 2) = true ∧
    nextIs (exec (.spiXchg 0x2A) (atStep { sb with spi := { sb.spi with rxBuf := some 0x9C } } 3))
      (fun t => t.res == 0x0000009C && t.spi.rxBuf == none && t.trace == [.result 0x0000009C]) = true := by decide

/-- P-S8, P-S9. -/
theorem test_spiXchg_faults :
    faultIs (exec (.spiXchg 0) ss) .spiMode = true ∧
    faultIs (exec (.spiXchg 0) { sb with spi := { sb.spi with spe := false } }) .spiDisabled = true := by decide

/-- P-S10, P-S11 (the gate rises at the end of the step and REQ becomes 1). -/
theorem test_spiDmaReq :
    faultIs (exec .spiDmaReq sb) .spiMode = true ∧
    nextIs (exec .spiDmaReq { ss with dma := cfgDma .running 5000 })
      (fun t => t.spi.txDmaEn && t.endOfStep.dma.req && t.endOfStep.spi.gPrev) = true := by decide

/-- P-S12 kept and lost (the two draws), P-S13 (CHSEL 0). -/
theorem test_request_pulse :
    ({ ss with
        spi := { ss.spi with txDmaEn := true }, dma := cfgDma .armed 5000, inp := ⟨[], 0, [1], 0⟩ } :
        State).endOfStep.dma.req = true ∧
    ({ ss with
        spi := { ss.spi with txDmaEn := true }, dma := cfgDma .armed 5000, inp := ⟨[], 0, [0], 0⟩ } :
        State).endOfStep.dma.req = false ∧
    ({ ss with spi := { ss.spi with txDmaEn := true }, dma := { cfgDma .running 5000 with chsel := 0 } } :
        State).endOfStep.dma.req = false := by decide

/-- P-S6: the frame of an exchange with CS 1, DC 0; the received byte is the draw. -/
theorem test_shifter_emit :
    (shifterStep
        { sb with
          spi := { sb.spi with shift := some ⟨.f8 0x2A, true, false⟩ }
          line := ⟨true, false, false⟩
          inp := ⟨[], 0, [0x5C], 0⟩ }).trace = [.frame true false (.f8 0x2A) true] ∧
    (shifterStep
        { sb with
          spi := { sb.spi with shift := some ⟨.f8 0x2A, true, false⟩ }
          line := ⟨false, false, false⟩
          inp := ⟨[], 0, [0x5C], 0⟩ }).trace = [.frame true false (.f8 0x2A) false] := by decide

/-- Most significant bit first (R73): 0x2A is 00101010 on the wire. -/
theorem test_wireBits :
    (Frame.f8 0x2A).wireBits = [false, false, true, false, true, false, true, false] := by decide

/-! ## The panel sequencer -/

/-- Q1: µ1; Q2: the largest admitted full-width window. -/
theorem test_seqWindow :
    nextIs (exec (.seqWindow ⟨10, 10, 109, 59⟩) sb)
      (fun t => t.seq.pixCnt == 5000 && t.line.cs && t.seq.state == .idle && t.fg.k == 2) = true ∧
    nextIs (exec (.seqWindow ⟨0, 0, 239, 272⟩) sb) (fun t => t.seq.pixCnt == 65520) = true := by decide

/-- V3, Q3, Q4, Q5, Q8, Q9. -/
theorem test_seqWindow_faults :
    faultIs (exec (.seqWindow ⟨0, 0, 239, 319⟩) sb) .count = true ∧
    faultIs (exec (.seqWindow ⟨0, 0, 239, 273⟩) sb) .count = true ∧
    faultIs (exec (.seqWindow ⟨0, 0, 240, 0⟩) sb) .window = true ∧
    faultIs (exec (.seqWindow ⟨5, 0, 4, 0⟩) sb) .window = true ∧
    faultIs (exec (.seqWindow ⟨10, 10, 109, 59⟩) s0) .spiMode = true ∧
    faultIs (exec (.seqWindow ⟨10, 10, 109, 59⟩) { sb with spi := { sb.spi with spe := false } }) .spiDisabled =
      true := by decide

/-- V1 and Q16: the bytes on the wire, with the micro-steps of their puts and DC writes in between left out. -/
theorem test_window_bytes :
    (windowBytes ⟨10, 10, 109, 59⟩).filterMap (fun m => match m with | .put b => some b | _ => none) =
      [0x2A, 0x00, 0x0A, 0x00, 0x6D, 0x2B, 0x00, 0x0A, 0x00, 0x3B, 0x2C] ∧
    (windowBytes ⟨0, 23, 239, 295⟩).filterMap (fun m => match m with | .put b => some b | _ => none) =
      [0x2A, 0x00, 0x00, 0x00, 0xEF, 0x2B, 0x00, 0x17, 0x01, 0x27, 0x2C] := by decide

/-- Q14; µ10 (fg.k = 10) writes the pipeline descriptor of P1. -/
theorem test_seqFill :
    nextIs (exec (.seqFill 0x20000000) (withSeq sb .windowSet)) (fun t => t.irq.masked && t.fg.k == 2) = true ∧
    nextIs (exec (.seqFill 0x20000000) (atStep (withSeq sb .streamingArmed) 10))
      (fun t => t.dma == cfgDma .armed 5000) = true := by decide

/-- Q11, Q12, Q13. -/
theorem test_seqFill_faults :
    faultIs (exec (.seqFill 0x20000000) sb) .seqState = true ∧
    faultIs (exec (.seqFill 0x20000001) (withSeq sb .windowSet)) .align = true ∧
    faultIs (exec (.seqFill 0x20000000) { withSeq sb .windowSet with dma := cfgDma .armed 5000 }) .notReady = true := by
  decide

/-- P1's µ1 and its µ52, which turns the request on and enters Streaming. -/
theorem test_seqFillWin :
    nextIs (exec (.seqFillWin ⟨10, 10, 109, 59⟩ 0x20000000) sb) (fun t => t.seq.pixCnt == 5000 && t.line.cs) = true ∧
    nextIs (exec (.seqFillWin ⟨10, 10, 109, 59⟩ 0x20000000) (atStep (withSeq ss .streamingArmed) 52))
      (fun t => t.seq.state == .streaming && t.spi.txDmaEn && t.fg.k == 53) = true := by decide

/-- Q21: SEQ.FILLWIN needs Idle. -/
theorem test_seqFillWin_faults :
    faultIs (exec (.seqFillWin ⟨10, 10, 109, 59⟩ 0x20000000) (withSeq sb .windowSet)) .seqState = true := by decide

/-- V2, Q15. -/
theorem test_seqFillCtr :
    nextIs (exec (.seqFillCtr 240 240 0x20000000) sb)
      (fun t => t.seq == ⟨.idle, ⟨0, 40, 239, 279⟩, 57600⟩) = true ∧
    nextIs (exec (.seqFillCtr 239 1 0x20000000) sb) (fun t => t.seq == ⟨.idle, ⟨0, 159, 238, 159⟩, 239⟩) = true := by
  decide

/-- Q17, Q18, Q19, Q20. -/
theorem test_seqFillCtr_faults :
    faultIs (exec (.seqFillCtr 240 274 0x20000000) sb) .count = true ∧
    faultIs (exec (.seqFillCtr 0 10 0x20000000) sb) .window = true ∧
    faultIs (exec (.seqFillCtr 10 321 0x20000000) sb) .window = true ∧
    faultIs (exec (.seqFillCtr 241 1 0x20000000) sb) .window = true := by decide

/-- Q24, Q25. -/
theorem test_seqState :
    nextIs (exec .seqState s0) (fun t => t.res == 0) = true ∧
    nextIs (exec .seqState sb) (fun t => t.res == 0x00010110 && t.trace == [.result 0x00010110]) = true := by decide

/-- V4: H2 with HT alone in SR and the pipeline mask reads an empty status, so its guard goes on at H10 (micro-step 12). -/
theorem test_seqHandshake :
    nextIs
      (exec .seqHandshake (atStep { sb with dma := { cfgDma .complete 5000 with ndt := 0, sr := 0b00010 } } 2))
      (fun t => t.fg.status == 0 && t.fg.remaining == 0 && t.fg.k == 3) = true ∧
    nextIs (exec .seqHandshake (atStep sb 4)) (fun t => t.fg.k == 12 && t.line == sb.line) = true := by decide

/-! ## The interrupt -/

/-- A completed pipeline fill (P1 before its interrupt), HT set and not enabled. -/
def completed : State :=
  { withSeq ss .streaming with
    spi := { ss.spi with txDmaEn := true, gPrev := true }
    dma := { cfgDma .complete 5000 with ndt := 0, sr := 0b00011, fetched := 5000, handed := 5000 }
    line := ⟨true, true, false⟩ }

/-- P1 step 8: IE enters with S = TC and r = 0; T2: not while masked. -/
theorem test_entry :
    (entryStep completed).hd = .active 1 0b00001 0 ∧
    (entryStep { completed with irq := ⟨true, true⟩ }).hd = .inactive := by decide

/-- T4: H1 calls the hooks of the error flags and of half transfer, and clears those flags only. -/
theorem test_handler_h1 :
    (handlerStep
        { ss with hd := .active 1 0b01011 0, dma := { cfgDma .complete 4 with ndt := 0, sr := 0b01011 } }).trace =
      [.hook .dme 0, .hook .ht 0] ∧
    (handlerStep
        { ss with hd := .active 1 0b01011 0, dma := { cfgDma .complete 4 with ndt := 0, sr := 0b01011 } }).dma.sr =
      0b00001 := by decide

/-- T3: the guard is false while the sequencer is Idle, so H2 goes on at H10; T6: H7 writes the profile. -/
theorem test_handler_guard :
    (handlerStep { ss with hd := .active 2 0b00001 0 }).hd = .active 10 0b00001 0 ∧
    (handlerStep { completed with hd := .active 2 0b00001 0 }).hd = .active 3 0b00001 0 ∧
    (handlerStep { completed with hd := .active 7 0b00001 0 }).spi.profile = .command := by decide

/-! ## Reset and the step -/

/-- R280 to R282: the block status word is 0, READY is 1, memory is in canonical form. -/
theorem test_reset :
    State.reset.blockWord = 0 ∧ State.reset.readyWord = 1 ∧ State.reset.statusWord = 0 ∧
    Memory.wf State.reset.mem = true := by decide

/-- The host's placing: the very next step runs the placed command. -/
theorem test_withFetchWord :
    nextIs (step (State.reset.withFetchWord 64 0x200000000E00F800))
      (fun t => t.mem == [(0x20000001, 0xF8)] && t.fg.pc == 2) = true := by decide

/-- A fault is recorded, then it is the outcome (R8, R253, log 9). -/
theorem test_step_fault :
    nextIs (step (State.reset.withFetchWord 32 0xFF000000)) (fun t => t.trace == [.fault .illegal]) = true ∧
    nextIs (step (State.reset.withFetchWord 32 0xFF000000)) (fun t => faultIs (step t) .illegal) = true := by decide

/-! ## Witnesses: for each statement with hypotheses, inputs that meet them, one line for each of its clauses -/

/-- Words placed as the program, the foreground at their start, its turn next. -/
def running1 (s : State) (ws : List Word) (ts : List Turn) : State :=
  { s with prog := ws, inp := { s.inp with turns := ts } }

/-- The foreground of every state here is free. -/
theorem free_of (s : State) (h : s.fault = none ∧ s.refused = none ∧ s.fg.halted = false ∧ s.hd = .inactive) : s.fgFree :=
  ⟨h.1, h.2.1, h.2.2.1, h.2.2.2⟩

theorem test_witness_DecodeOfEncode :
    (Instr.dmaConfig 7 ⟨7, 2, 1, true, 3, 31⟩ 0xFFFFFFFF 0xFFFFFFFF 0xFFFF).wf = true ∧ Instr.seqState.wf = true := by
  decide

theorem test_witness_EncodeOfDecode :
    decode [0x0E00F800, 0x20000000, 0x01000000] = .command (.memWr16 0xF800 0x20000000) := by decide

/-- Both ends of every range, and the opcodes next to them that are legal. -/
theorem test_witness_IllegalOpcodes :
    ([0x04, 0x07, 0x0B, 0x0F, 0x16, 0x1F, 0x25, 0x2F, 0x36, 0xFF] : List Byte).all (fun b => (findRow b).isNone) = true ∧
    ([0x03, 0x08, 0x0A, 0x0C, 0x0E, 0x10, 0x15, 0x20, 0x24, 0x30, 0x35] : List Byte).all (fun b => (findRow b).isSome) =
      true := by decide

theorem test_witness_DecodeOrder :
    s0.prog.length ≤ s0.fg.pc ∧
    (running1 s0 [0xFF000000] []).prog[0]? = some 0xFF000000 ∧ findRow (opcOf 0xFF000000) = none ∧
    (findRow (opcOf 0x0E00F800)).map OpcodeRow.len = some 1 ∧ [0x0E00F800].length ≤ 0 + 1 ∧
    (findRow (opcOf 0x0E01F800)).map OpcodeRow.mask = some 0xFFFF0000 ∧
    (0x0E01F800 : Word) &&& 0xFFFF0000 ≠ 0x0E000000 ∧ 0 + 1 < [0x0E01F800, 0x20000000].length ∧
    (findRow (opcOf 0x0C030000)).map (fun r => r.build 0x0C030000 []) = some none ∧
    (findRow (opcOf 0x0C020000)).map (fun r => r.build 0x0C020000 []) = some (some (.lineSet .rst)) := by decide

theorem test_witness_DecodeOrder_faults :
    s0.fgFree ∧ s0.fetch = .reject .pcEnd ∧ (running1 s0 [0xFF000000] []).fetch = .reject .illegal ∧
    (running1 s0 [0x00000001] []).fetch = .reject .reserved := by
  refine ⟨free_of _ (by decide), ?_⟩
  decide

theorem test_witness_OperandWords :
    (0x001D015B : Word) &&& 0xFFE0F808 ≠ 0 ∧ (0x00200000 : Word) &&& 0xFFE0F808 ≠ 0 ∧
    (0x00000800 : Word) &&& 0xFFE0F808 ≠ 0 ∧ (0x001D0173 : Word).extractLsb' 4 2 = 3 ∧
    (0x001D0193 : Word).extractLsb' 6 2 = 2 ∧ (0x001D01D3 : Word).extractLsb' 6 2 = 3 ∧
    (0x00010000 : Word).extractLsb' 16 16 ≠ 0 ∧
    ((0x001F0767 : Word) &&& 0xFFE0F808 = 0 ∧ (0x001F0767 : Word).extractLsb' 4 2 ≠ 3 ∧
      (0x001F0767 : Word).extractLsb' 6 2 ≠ 2 ∧ (0x001F0767 : Word).extractLsb' 6 2 ≠ 3 ∧
      (0x0000FFFF : Word).extractLsb' 16 16 = 0) := by decide

theorem test_witness_StepRunsDecoded :
    let s := running1 s0 [0x0C000000] [.fg]
    s.fgFree ∧ s.takeTurn.1 = .fg ∧ decode (s.prog.drop s.fg.pc) = .command (.lineSet .cs) := by
  refine ⟨free_of _ (by decide), ?_⟩
  decide

/-- A foreground's turn halted, preempted and with each rejected packet; each other agent's turn; each mark. -/
theorem test_witness_StepRunsTheTurn :
    s0.fault = none ∧ s0.refused = none ∧ (running1 s0 [] [.fg]).takeTurn.1 = .fg ∧
    ({ running1 s0 [] [.fg] with fg := { s0.fg with halted := true } } : State).fg.halted = true ∧
    ({ running1 s0 [] [.fg] with hd := .active 1 0 0 } : State).hd ≠ .inactive ∧
    (s0.fg.halted = false ∧ s0.hd = .inactive ∧ decode (s0.prog.drop s0.fg.pc) = .reject .pcEnd) ∧
    decode ([0xFF000000].drop s0.fg.pc) = .reject .illegal ∧ decode ([0x00000001].drop s0.fg.pc) = .reject .reserved ∧
    ([Turn.hd, .ie, .deFetch, .deHandoff, .sh, .env].all fun t => decide ((running1 s0 [] [t]).takeTurn.1 = t)) = true ∧
    faultIs
      (handoffStep { sb with dma := { cfgDma .running 3 with fetched := 1, fifo := [7], req := true } }) .width = true ∧
    ({ s0 with fault := some .mem } : State).fault = some .mem ∧
    (({ s0 with refused := some .dst } : State).fault = none ∧
      ({ s0 with refused := some .dst } : State).refused = some .dst) := by decide

/-- Not free; a rejected packet; µ1; each wait; an action; SEQ.HANDSHAKE's first, last and waiting micro-steps, held and ready. -/
theorem test_witness_ForegroundAdmission :
    let h : State := running1 sb [0x34000000] []
    ({ s0 with fg := { s0.fg with halted := true } } : State).fg.halted = true ∧
    ({ s0 with hd := .active 1 0 0 } : State).hd ≠ .inactive ∧ ({ s0 with fault := some .mem } : State).fault ≠ none ∧
    (s0.fault = none ∧ s0.refused = none ∧ s0.fg.halted = false ∧ s0.hd = .inactive ∧ s0.fetch = .reject .pcEnd) ∧
    ((running1 s0 [0x00000000] []).fetch = .command .ctlNop ∧ s0.fg.k = 1) ∧
    (atStep (running1 sb [0x230000A7] []) 2).pending.head? = some .waitRx ∧
    (atStep (running1 sb [0x230000A7] []) 3).pending.head? = some .takeResult ∧
    (atStep (running1 sb [0x22000000] []) 2).pending.head? = some .waitNotBusy ∧
    (atStep (running1 sb [0x22000000] []) 4).pending.head? = some .waitSpeClear ∧
    (atStep (running1 sb [0x21000000] []) 2).pending.head? = some .waitSpeSet ∧
    (atStep (running1 s0 [0x12020000] []) 2).pending.head? = some .waitDmaOff ∧
    (atStep (running1 s0 [0x02020000] []) 2).pending.head? = some .waitReady ∧
    (atStep (running1 s0 [0x03000000] []) 2).pending.head? = some .waitSeqIdle ∧
    (atStep (running1 sb [0x31000000, 0x20000000] []) 14).pending.head? = some .restoreMask ∧
    (h.fetch = .command .seqHandshake ∧ (atStep h 2).fgEnabled = true ∧ (atStep h 13).fgEnabled = true) ∧
    ((atStep h 6).fgEnabled = true ∧ (atStep { h with spi := { h.spi with txBuf := some (.f8 1) } } 6).fgEnabled = false) ∧
    ((atStep h 8).fgEnabled = false ∧ (atStep { h with spi := { h.spi with spe := false } } 8).fgEnabled = true) ∧
    ((atStep h 11).fgEnabled = true ∧
      (atStep { h with spi := { h.spi with spe := false } } 11).fgEnabled = false) := by decide

theorem test_witness_OnlyTheseAgentsStop :
    faultIs (turnStep .fg s0) .pcEnd = true ∧
    faultIs
      (turnStep .deHandoff { sb with dma := { cfgDma .running 3 with fetched := 1, fifo := [7], req := true } }) .width =
      true ∧
    refusedIs (turnStep .fg (running1 running [0x12020000] [])) .cancel = true ∧
    refusedIs (turnStep .fg (running1 s0 [0x10020000, 0x001D0153, 0x20000000, 0x50000004, 4] [])) .dst = true := by
  decide

/-- A step that answers next, also for ProgramFixedTraceGrows and UnreadParametersAndHooks. -/
theorem test_witness_ProgramFixedTraceGrows :
    nextIs (step (running1 s0 [0x35000000] [.fg])) (fun t => t.trace == [.result 0]) = true ∧
    nextIs (step { completed with hd := .active 10 0b00001 0, inp := ⟨[.hd], 0, [], 0⟩ })
      (fun t => t.trace == [.hook .tc 0]) = true := by decide

theorem test_witness_LaunchInvariant : Memory.wf [(0x20000001, 0xF8), (0x2001FFFF, 1)] = true := by decide

theorem test_witness_MemReadMemWrite :
    s0.par.memOrder = .little ∧ ({ Config.tc0 with memOrder := .big } : Params).memOrder = .big ∧
    (4 ≤ 2 ^ 32 ∧ 0xFFFFFFFF < 2 ^ (8 * 4) ∧ Memory.wf s0.mem = true) ∧
    nextIs (step (running1 s0 [0x35000000] [.fg])) (fun t => t.par.memOrder == .little) = true := by decide

theorem test_witness_MemWr16 :
    s0.fg.k = 1 ∧ (0x20000001 : Word).toNat % 2 = 1 ∧
    ((0x20020000 : Word).toNat % 2 = 0 ∧ s0.par.ramByte 0x20020000 = false) ∧
    ((0x2001FFFE : Word).toNat % 2 = 0 ∧ s0.par.ramByte 0x2001FFFE = true ∧ s0.par.ramByte (0x2001FFFE + 1) = true) ∧
    Memory.wf s0.mem = true := by decide

/-- Also for NopAndHalt, LineCommands and StatusCommands, whose one hypothesis is fg.k = 1. -/
theorem test_witness_InterruptCommands : s0.fg.k = 1 ∧ (6 : Byte) ≠ s0.par.dmaIrqId := by decide

theorem test_witness_WaitCommands :
    s0.fg.k = 1 ∧ (1 : BitVec 3) ≠ s0.par.streamId ∧ (2 : BitVec 3) = s0.par.streamId ∧
    ((atStep s0 2).fg.k = 2 ∧ (atStep s0 2).dma.ndt = 0) ∧
    ((atStep running 2).fg.k = 2 ∧ (atStep running 2).dma.ndt ≠ 0) ∧
    ((atStep s0 2).seq.state = .idle ∧ (atStep s0 2).hd = .inactive) ∧
    (atStep (withSeq sb .windowSet) 2).seq.state ≠ .idle ∧
    ({ atStep s0 2 with hd := .active 11 0 0 } : State).hd ≠ .inactive := by decide

theorem test_witness_ResultRule :
    nextIs (exec .seqState sb) (fun t => t.trace == [.result t.res]) = true ∧
    nextIs (exec .ctlHalt sb) (fun t => t.trace == [.halt]) = true := by decide

theorem test_witness_BadStream : s0.fg.k = 1 ∧ (7 : BitVec 3) ≠ s0.par.streamId ∧ cfgCtrl.wf = true := by decide

theorem test_witness_ForegroundExclusion :
    (withSeq sb .streaming).fg.k = 1 ∧ (withSeq sb .streaming).fillUnderWay ∧ (withSeq sb .streamingArmed).fillUnderWay ∧
    cfgCtrl.wf = true := ⟨rfl, .inr rfl, .inl rfl, rfl⟩

/-- No fill is under way in the start states. -/
theorem test_no_fill : ¬ s0.fillUnderWay ∧ ¬ armed.fillUnderWay ∧ ¬ running.fillUnderWay ∧ ¬ sb.fillUnderWay ∧
    ¬ ss.fillUnderWay ∧ ¬ (withSeq sb .windowSet).fillUnderWay := by
  refine ⟨?_, ?_, ?_, ?_, ?_, ?_⟩ <;> exact fun h => h.elim nofun nofun

/-- With `test_no_fill`; the last two lines are the accepted forms, a single byte element at an odd address and a burst. -/
theorem test_witness_DmaConfig :
    s0.fg.k = 1 ∧ (cfgCtrl.esize = 1 ∧ cfgCtrl.burst = 1) ∧ running.dma.en = true ∧
    (s0.dma.en = false ∧ (0x50000004 : Word) ≠ s0.par.spiDrAddr) ∧
    ((0x50000000 : Word) = s0.par.spiDrAddr ∧ (0x20000001 : Word).toNat % ElemSize.half.bytes ≠ 0) ∧
    (0x20000002 : Word).toNat % ElemSize.word.bytes ≠ 0 ∧
    ((0x20000001 : Word).toNat % ElemSize.byte.bytes = 0 ∧ s0.par.burstOk.admits 0x20000001 3 .byte = false) ∧
    ((0x20000000 : Word).toNat % ElemSize.half.bytes = 0 ∧ cfgCtrl.fen = true ∧
      s0.par.burstOk.admits 0x20000000 5000 .half = true) := by decide

theorem test_witness_DmaStart :
    s0.fg.k = 1 ∧ running.dma.state = .running ∧ (s0.dma.state ≠ .running ∧ s0.dma.state ≠ .armed) ∧
    (cfgDma .armed 0).state = .armed ∧ (cfgDma .armed 0).ndt = 0 ∧
    (armed.dma.state = .armed ∧ armed.dma.ndt ≠ 0) := by decide

/-- With `test_no_fill`; the first line is DMA.CLEAR's, the others DMA.DISABLE's. -/
theorem test_witness_DmaClearAndDisable :
    (s0.fg.k = 1 ∧ hasFlag (0b10110 : BitVec 5) .tc = false) ∧
    running.dma.state = .running ∧ armed.dma.state = .armed ∧
    (s0.dma.state ≠ .armed ∧ s0.dma.state ≠ .running) ∧ ((atStep s0 2).fg.k = 2 ∧ (atStep s0 2).dma.en = false) ∧
    (atStep running 2).dma.en = true := by decide

theorem test_witness_FetchStep :
    (running.dma.state = .running ∧ running.dma.fetched.toNat < running.dma.ndtCfg.toNat ∧
      running.dma.fetched.toNat - running.dma.handed.toNat < running.par.fifoDepth ∧
      running.par.admits 0x2001FFFE 2 = true) ∧
    running.par.admits 0x20020000 2 = false ∧ s0.dma.state ≠ .running := by decide

theorem test_witness_HandoffStep :
    let d : Dma := { cfgDma .running 5 with ndt := 3, handed := 2, fetched := 3, fifo := [0xABCD], req := true }
    s0.dma.fifo = [] ∧ d.fifo = 0xABCD :: [] ∧ (d.state = .running ∧ d.req = true ∧ ss.spi.txBuf = none) ∧
    sb.spi.profile ≠ .streaming ∧ ({ d with esize := .byte } : Dma).esize ≠ .half ∧
    (ss.spi.profile = .streaming ∧ d.esize = .half ∧ d.ndt - 1 ≠ 0) ∧ ({ d with ndt := 1 } : Dma).ndt - 1 = 0 ∧
    ({ d with req := false } : Dma).req = false := by decide

theorem test_witness_ErrorStep : s0.dma.state ≠ .running ∧ running.dma.state = .running := by decide

theorem test_witness_SoftwareSetsNoFlag :
    let d : Dma := { cfgDma .complete 4 with ndt := 0, sr := 0b01011 }
    nextIs (turnStep .hd { ss with hd := .active 1 0b01010 0, dma := d })
      (fun t => hasFlag t.dma.sr .tc && hasFlag d.sr .tc) = true ∧
    nextIs (turnStep .fg (running1 { s0 with dma := d } [0x14020008] [])) (fun t => hasFlag t.dma.sr .ht) = true := by
  decide

/-- A running stream of two elements with its request latched, at its start. -/
def streaming2 : State :=
  { ss with dma := { cfgDma .running 2 with req := true }, spi := { ss.spi with txDmaEn := true, gPrev := true } }

theorem test_witness_StreamCompletes :
    (streaming2.fault = none ∧ streaming2.refused = none ∧ streaming2.dma.state = .running) ∧
    (2 = streaming2.dma.ndtCfg.toNat ∧ streaming2.dma.ndt = streaming2.dma.ndtCfg ∧ streaming2.dma.fetched = 0 ∧
      streaming2.dma.handed = 0 ∧ streaming2.dma.fifo = []) ∧
    (streaming2.dma.req = true ∧ streaming2.dma.esize = .half ∧ streaming2.dma.chsel = streaming2.par.spiTxChannel ∧
      1 ≤ streaming2.par.fifoDepth) ∧
    (streaming2.spi.profile = .streaming ∧ streaming2.spi.spe = true ∧ streaming2.spi.txDmaEn = true ∧
      streaming2.spi.txBuf = none ∧ streaming2.spi.shift = none ∧ streaming2.spi.gPrev = true) ∧
    ∀ i < 2, streaming2.par.admits (streaming2.dma.src + BitVec.ofNat 32 (i * 2)) 2 = true := by decide

/-- With `test_no_fill`. -/
theorem test_witness_SpiConfig :
    s0.fg.k = 1 ∧ sb.spi.spe = true ∧
    (s0.spi.spe = false ∧ ({ s0.spi with txBuf := some (.f16 1) } : Spi).txBuf ≠ none) ∧
    ({ s0.spi with shift := some ⟨.f16 1, true, true⟩ } : Spi).shift ≠ none ∧
    (s0.spi.spe = false ∧ s0.spi.txBuf = none ∧ s0.spi.shift = none) := by decide

/-- With `test_no_fill`. -/
theorem test_witness_SpiEnableAndRequest :
    s0.fg.k = 1 ∧ s0.spi.profile = .none ∧ sb.spi.profile ≠ .none ∧ ((atStep sb 2).fg.k = 2 ∧ sb.spi.spe = true) ∧
    (atStep s0 2).spi.spe = false ∧ sb.spi.profile ≠ .streaming ∧ ss.spi.profile = .streaming := by decide

/-- With `test_no_fill`. -/
theorem test_witness_SpiDisable :
    running.dma.state = .running ∧ sb.dma.state ≠ .running ∧
    ((atStep sb 2).fg.k = 2 ∧ sb.spi.txBuf = none ∧ sb.spi.shift = none) ∧
    ({ sb.spi with shift := some ⟨.f8 1, true, true⟩ } : Spi).shift ≠ none ∧ (atStep sb 3).fg.k = 3 ∧
    ((atStep s0 4).fg.k = 4 ∧ s0.spi.spe = false) ∧ sb.spi.spe = true := by decide

/-- With `test_no_fill`. -/
theorem test_witness_SpiXchg :
    ss.spi.profile ≠ .command ∧ (sb.spi.profile = .command ∧ ({ sb.spi with spe := false } : Spi).spe = false) ∧
    (sb.spi.spe = true ∧ ({ sb.spi with txBuf := some (.f8 0) } : Spi).txBuf ≠ none) ∧ sb.spi.txBuf = none ∧
    ((atStep sb 2).fg.k = 2 ∧ ({ sb.spi with rxBuf := some 0 } : Spi).rxBuf ≠ none) ∧ sb.spi.rxBuf = none ∧
    ((atStep sb 3).fg.k = 3 ∧ ({ sb.spi with rxBuf := some 0xFF } : Spi).rxBuf = some 0xFF) := by decide

/-- The gate of a state whose link asks for data: raised by this step, raised before, low, and with another channel. -/
theorem test_witness_RequestEdge :
    let s : State := { ss with spi := { ss.spi with txDmaEn := true }, dma := cfgDma .running 4 }
    s.gate = (s.spi.spe && s.spi.txDmaEn && s.spi.txBuf.isNone && decide (s.spi.profile = .streaming)) ∧
    (s.gate = true ∧ s.spi.gPrev = false ∧ s.dma.chsel = s.par.spiTxChannel ∧ s.dma.state = .running) ∧
    (cfgDma .armed 4).state ≠ .running ∧ ss.gate = false ∧ streaming2.spi.gPrev = true ∧
    (0 : BitVec 3) ≠ s.par.spiTxChannel := by decide

theorem test_witness_ShifterSteps :
    s0.spi.spe = false ∧ (sb.spi.shift = none ∧ sb.spi.txBuf = none) ∧
    (sb.spi.spe = true ∧ ({ sb.spi with txBuf := some (.f8 1) } : Spi).txBuf = some (.f8 1)) ∧
    ({ ss.spi with shift := some ⟨.f16 1, true, false⟩ } : Spi).shift = some ⟨.f16 1, true, false⟩ ∧
    ss.spi.profile ≠ .command ∧ sb.spi.profile = .command := by decide

/-- The largest window and size, and values on each side of each bound. -/
theorem test_witness_WindowGeometry :
    (⟨0, 0, 239, 319⟩ : Window).valid = true ∧ (⟨239, 319, 239, 319⟩ : Window).valid = true ∧
    (⟨0, 0, 240, 0⟩ : Window).valid = false ∧ (⟨0, 0, 0, 320⟩ : Window).valid = false ∧
    centerSizeValid 240 320 = true ∧ centerSizeValid 1 1 = true ∧ centerSizeValid 241 1 = false ∧
    centerSizeValid 0 1 = false := by decide

/-- The link of SB is ready and quiet. -/
theorem test_link : sb.linkReady ∧ sb.linkQuiet := ⟨⟨rfl, rfl, rfl⟩, ⟨rfl, rfl, rfl⟩⟩

/-- With `test_no_fill` and `test_link`; the window of Q2 is the largest of the panel's full width that is admitted. -/
theorem test_witness_SeqWindow :
    sb.fg.k = 1 ∧ (withSeq sb .streaming).fillUnderWay ∧ (⟨5, 0, 4, 0⟩ : Window).valid = false ∧
    ((⟨0, 0, 239, 273⟩ : Window).valid = true ∧ 65535 < (⟨0, 0, 239, 273⟩ : Window).pixelCount) ∧
    ((⟨0, 0, 239, 272⟩ : Window).valid = true ∧ (⟨0, 0, 239, 272⟩ : Window).pixelCount ≤ 65535) ∧
    ss.spi.profile ≠ .command ∧ ({ sb.spi with spe := false } : Spi).spe = false ∧
    ({ sb.spi with txBuf := some (.f8 1) } : Spi).txBuf ≠ none :=
  ⟨rfl, .inr rfl, by decide⟩

theorem test_witness_SeqWindowRuns :
    let s := running1 sb [0x30000000, 0x006D000A, 0x003B000A] []
    s.fgFree ∧ s.fg.k = 1 ∧ s.fetch = .command (.seqWindow ⟨10, 10, 109, 59⟩) ∧ ¬ s.fillUnderWay ∧ s.linkReady ∧
    s.linkQuiet :=
  ⟨free_of _ (by decide), rfl, by decide, fun h => h.elim nofun nofun, ⟨rfl, rfl, rfl⟩, ⟨rfl, rfl, rfl⟩⟩

/-- The fill of P1 and of Q14 is ready. -/
theorem test_fill_ready : (withSeq sb .windowSet).fillReady 0x20000000 5000 :=
  ⟨rfl, rfl, by decide, by decide⟩

theorem test_witness_SeqFillBegins :
    sb.seq.state ≠ .windowSet ∧ (withSeq sb .windowSet).seq.state = .windowSet ∧ running.dma.en = true ∧
    armed.dma.ndt ≠ 0 ∧ (sb.dma.en = false ∧ sb.dma.ndt = 0) ∧ (0x20000001 : Word).toNat % 2 = 1 ∧
    ((0x20000002 : Word).toNat % 2 = 0 ∧ (BurstRule.addrMod 4 0).admits 0x20000002 5000 .half = false) := by decide

theorem test_witness_SeqFillRuns :
    let s := running1 (withSeq sb .windowSet) [0x31000000, 0x20000000] []
    s.fgFree ∧ s.fg.k = 1 ∧ s.fetch = .command (.seqFill 0x20000000) ∧ s.seq.state = .windowSet ∧
    s.fillReady 0x20000000 s.seq.pixCnt ∧ s.dma.state ≠ .running ∧ s.bsy = false ∧ s.spi.gPrev = s.gate :=
  ⟨free_of _ (by decide), rfl, by decide, rfl, ⟨rfl, rfl, by decide, by decide⟩, by decide, rfl, rfl⟩

/-- With `test_link`; SEQ.FILLCTR's window is that of V2. -/
theorem test_witness_FillWindow :
    sb.fg.k = 1 ∧ (withSeq sb .windowSet).seq.state ≠ .idle ∧ sb.seq.state = .idle ∧ centerSizeValid 241 1 = false ∧
    (⟨5, 0, 4, 0⟩ : Window).valid = false ∧
    (centerSizeValid 240 240 = true ∧ centeredWindow 240 240 = ⟨0, 40, 239, 279⟩ ∧
      (⟨0, 40, 239, 279⟩ : Window).valid = true ∧ (⟨0, 40, 239, 279⟩ : Window).pixelCount ≤ 65535) ∧
    65535 < (centeredWindow 240 274).pixelCount ∧ ss.spi.profile ≠ .command ∧ running.dma.en = true ∧
    (0x20000001 : Word).toNat % 2 = 1 ∧
    (BurstRule.addrMod 4 0).admits 0x20000002 (BitVec.ofNat 16 57600) .half = false := by decide

theorem test_witness_FillWindow_ready : sb.fillReady 0x20000000 (BitVec.ofNat 16 57600) :=
  ⟨rfl, rfl, by decide, by decide⟩

theorem test_witness_FillCtrIsFillWin :
    centerSizeValid 240 320 = true ∧ (atStep sb 52).fg.k ≠ 53 ∧ (atStep sb 53).fg.k = 53 := by decide

theorem test_witness_FillWindowRuns :
    let s := running1 sb [0x33000000, 0x00F000F0, 0x20000000] []
    s.fgFree ∧ s.fg.k = 1 ∧ s.fetch = .command (.seqFillCtr 240 240 0x20000000) ∧ s.seq.state = .idle ∧ s.linkReady ∧
    s.linkQuiet ∧ s.fillReady 0x20000000 (BitVec.ofNat 16 (centeredWindow 240 240).pixelCount) ∧
    s.dma.state ≠ .running :=
  ⟨free_of _ (by decide), rfl, by decide, rfl, ⟨rfl, rfl, rfl⟩, ⟨rfl, rfl, rfl⟩, ⟨rfl, rfl, by decide, by decide⟩,
    by decide⟩

theorem test_witness_Interrupt :
    completed.takeable = true ∧ ({ completed with irq := ⟨true, true⟩ } : State).takeable = false := by decide

/-- The teardown of a completed fill, at H1 with the last element in the transmit buffer and one being shifted. -/
def busyTeardown : State :=
  { completed with
    hd := .active 1 0b00001 0
    spi := { completed.spi with txBuf := some (.f16 1), shift := some ⟨.f16 2, true, true⟩, gPrev := false } }

theorem test_witness_TeardownRuns :
    (let s : State := { completed with hd := .active 1 0b00001 0 }
     s.fault = none ∧ s.refused = none ∧ s.hd = .active 1 0b00001 0 ∧ hasFlag 0b00001 .tc = true ∧
     s.seq.state = .streaming ∧ s.bsy = false ∧ s.spi.gPrev = s.gate) ∧
    (({ busyTeardown with hd := .active 3 0b00001 0 } : State).hd = .active 3 0b00001 0 ∧
      ({ busyTeardown with hd := .active 4 0b00001 0 } : State).hd = .active 4 0b00001 0 ∧
      busyTeardown.spi.txBuf ≠ none ∧ busyTeardown.spi.shift ≠ none ∧ completed.spi.txBuf = none ∧
      completed.spi.shift = none) ∧
    (busyTeardown.fault = none ∧ busyTeardown.refused = none ∧ busyTeardown.hd = .active 1 0b00001 0 ∧
      busyTeardown.seq.state = .streaming ∧ busyTeardown.spi.profile = .streaming ∧ busyTeardown.spi.spe = true ∧
      busyTeardown.spi.gPrev = busyTeardown.gate) := by decide

theorem test_witness_NoTeardownRuns :
    let s : State := { ss with hd := .active 1 0b00001 0 }
    s.fault = none ∧ s.refused = none ∧ s.hd = .active 1 0b00001 0 ∧ s.seq.state ≠ .streaming ∧
    hasFlag 0b11110 .tc = false ∧ s.spi.gPrev = s.gate := by decide

theorem test_witness_DrainIsBounded :
    ({ completed with
        spi := { completed.spi with txBuf := some (.f16 1), shift := some ⟨.f16 2, true, true⟩ } } : State).spi.spe =
      true := by decide

theorem test_witness_Handshake :
    let s := running1 completed [0x34000000] []
    s.fgFree ∧ s.fg.k = 1 ∧ s.fetch = .command .seqHandshake ∧ s.spi.gPrev = s.gate ∧
    hasFlag (s.dma.sr &&& s.dma.ie) .tc = true ∧ s.seq.state = .streaming ∧ s.bsy = false ∧
    hasFlag (0b00010 &&& s.dma.ie) .tc = false ∧ (atStep s 2).fg.k = 2 ∧ (atStep s 6).fg.k = 6 ∧
    (atStep s 13).fg.k = 13 :=
  ⟨free_of _ (by decide), by decide⟩

theorem test_witness_FinalHasNoStep :
    ({ s0 with fg := { s0.fg with halted := true } } : State).final = true := by decide

/-- The lost branch of P4. -/
def lost : State :=
  { ss with dma := { cfgDma .running 4 with fetched := 4, fifo := [1, 2, 3, 4] },
            spi := { ss.spi with txDmaEn := true, gPrev := true } }

/-- The same stream after an error stopped it. -/
def lostStopped : State := { lost with dma := { lost.dma with en := false, state := .aborted, fifo := [], sr := 0b10000 } }

theorem test_inv_lost (turn : Turn) : Inv (running1 lost [] [turn]) ∧ Inv (running1 lostStopped [] [turn]) := by
  have hp : (running1 lost [] [turn]).pending = [] ∧ (running1 lostStopped [] [turn]).pending = [] := ⟨rfl, rfl⟩
  refine ⟨⟨⟨rfl, rfl⟩, ?_, ?_, ?_⟩, ⟨rfl, rfl⟩, ?_, ?_, ?_⟩ <;> constructor <;> (try rw [hp.1]) <;> (try rw [hp.2]) <;>
    simp [running1, lost, lostStopped, cfgDma, ss, sb, State.launch, Config.tc0, hasFlag, FlagKind.bit, prefetchWindow,
      State.inHandshake, State.fetch, decode]

/-- A handoff's turn and an error that stops the stream; the stopped stream with an interrupt's entry. -/
theorem test_witness_LostRequestIsForGood :
    (∀ turn, Inv (running1 lost [] [turn]) ∧ Inv (running1 lostStopped [] [turn])) ∧
    (lost.dma.state = .running ∧ lost.dma.req = false ∧ lost.gate = true) ∧
    nextIs (step (running1 lost [] [.deHandoff])) (fun t => t.dma.ndt == 4 && decide (t.dma.state = .running)) = true ∧
    nextIs (step { running1 lost [] [.env] with inp := ⟨[.env], 0, [0, 0], 0⟩ })
      (fun t => t.dma.ndt == 4 && decide (t.dma.state = .aborted)) = true ∧
    (lostStopped.dma.state = .aborted ∧ lostStopped.dma.req = false ∧ lostStopped.gate = true) ∧
    (running1 lostStopped [] [.ie]).takeTurn.1 ≠ .fg ∧
    nextIs (step (running1 lostStopped [] [.ie])) (fun t => t.dma.ndt == 4) = true :=
  ⟨test_inv_lost, by decide⟩

/-! ### States of the invariant, one before each transition of the sequencer (R202) and one before H7 -/

/-- µ40 of SEQ.WINDOW. -/
def atWindowSet : State :=
  { running1 sb [0x30000000, 0x006D000A, 0x003B000A] [.fg] with
    fg := { sb.fg with k := 40 }, line := ⟨true, false, false⟩, seq := ⟨.idle, ⟨10, 10, 109, 59⟩, 5000⟩ }

/-- µ8 of SEQ.FILL. -/
def atArm : State :=
  { running1 (withSeq ss .windowSet) [0x31000000, 0x20000000] [.fg] with
    fg := { ss.fg with k := 8 }, irq := ⟨true, true⟩, line := ⟨true, false, false⟩ }

/-- µ13 of SEQ.FILL. -/
def atRequestOn : State :=
  { running1 (withSeq ss .streamingArmed) [0x31000000, 0x20000000] [.fg] with
    fg := { ss.fg with k := 13 }, irq := ⟨true, true⟩, line := ⟨true, true, false⟩, dma := cfgDma .running 5000 }

/-- Step Hj of the teardown of a completed fill, with the link as it is there. -/
def atTeardown (j : Nat) (p : Profile) (spe : Bool) : State :=
  { completed with
    hd := .active j 0b00001 0
    dma := { completed.dma with sr := 0b00010 }
    spi := { ss.spi with profile := p, spe := spe, txDmaEn := false, gPrev := false }
    line := ⟨false, true, false⟩
    inp := ⟨[.hd], 0, [], 0⟩ }

theorem test_inv_atWindowSet : Inv atWindowSet := by
  have hp : atWindowSet.pending = [.windowSet] := by decide
  refine ⟨⟨rfl, rfl⟩, ?_, ?_, ?_⟩ <;> constructor <;> (try rw [hp]) <;>
    simp [atWindowSet, running1, sb, State.launch, hasFlag, exchangeState, State.bsy, State.rxne, awaitsByte,
      State.inHandshake, State.fetch, decode, findRow, opcodeRows, ctlRows, dmaRows, spiRows, seqRows, headerRow, opcOf,
      decodeRow]

theorem test_inv_atArm : Inv atArm := by
  have hp : atArm.pending =
      [.armSequencer, .waitDmaOff, .pipeline 0x20000000, .selectData, .startStream, .requestOn, .restoreMask] := by decide
  refine ⟨⟨rfl, rfl⟩, ?_, ?_, ?_⟩ <;> constructor <;> (try rw [hp]) <;>
    simp [atArm, running1, withSeq, ss, sb, State.launch, hasFlag, State.bsy, awaitsByte,
      State.inHandshake, State.fetch, decode, findRow, opcodeRows, ctlRows, dmaRows, spiRows, seqRows, headerRow, opcOf,
      decodeRow]

theorem test_inv_atRequestOn : Inv atRequestOn := by
  have hp : atRequestOn.pending = [.requestOn, .restoreMask] := by decide
  refine ⟨⟨rfl, rfl⟩, ?_, ?_, ?_⟩ <;> constructor <;> (try rw [hp]) <;>
    simp [atRequestOn, running1, withSeq, cfgDma, ss, sb, State.launch, hasFlag, State.bsy, awaitsByte, prefetchWindow,
      State.inHandshake, State.fetch, decode, findRow, opcodeRows, ctlRows, dmaRows, spiRows, seqRows, headerRow, opcOf,
      decodeRow]

/-- What the teardown clause of the invariant asks of H7 and H9. -/
theorem test_teardownAt :
    TeardownAt (atTeardown 7 .streaming false) 7 0b00001 ∧ TeardownAt (atTeardown 9 .command true) 9 0b00001 := by
  refine ⟨?_, ?_⟩ <;> constructor <;>
    simp [atTeardown, completed, withSeq, cfgDma, ss, sb, State.launch, hasFlag, FlagKind.bit, State.bsy]

theorem test_inv_atH7 : Inv (atTeardown 7 .streaming false) := by
  have hp : (atTeardown 7 .streaming false).pending = [] := by decide
  refine ⟨⟨rfl, rfl⟩, ?_, ?_, ?_⟩ <;> constructor <;> (try rw [hp])
  case refine_2.handler =>
    intro j status r h
    cases h
    exact ⟨by decide, by decide, test_teardownAt.1⟩
  all_goals
    simp [atTeardown, completed, withSeq, cfgDma, ss, sb, State.launch, hasFlag, FlagKind.bit, State.inHandshake,
      prefetchWindow]

theorem test_inv_atH9 : Inv (atTeardown 9 .command true) := by
  have hp : (atTeardown 9 .command true).pending = [] := by decide
  refine ⟨⟨rfl, rfl⟩, ?_, ?_, ?_⟩ <;> constructor <;> (try rw [hp])
  case refine_2.handler =>
    intro j status r h
    cases h
    exact ⟨by decide, by decide, test_teardownAt.2⟩
  all_goals
    simp [atTeardown, completed, withSeq, cfgDma, ss, sb, State.launch, hasFlag, FlagKind.bit, State.inHandshake,
      prefetchWindow, exchangeState, State.bsy, State.rxne]

/-- One state for each of the four transitions. -/
theorem test_witness_SequencerTransitions :
    (Inv atWindowSet ∧ nextIs (step atWindowSet) (fun t => t.seq.state != atWindowSet.seq.state) = true) ∧
    (Inv atArm ∧ nextIs (step atArm) (fun t => t.seq.state != atArm.seq.state) = true) ∧
    (Inv atRequestOn ∧ nextIs (step atRequestOn) (fun t => t.seq.state != atRequestOn.seq.state) = true) ∧
    (Inv (atTeardown 9 .command true) ∧
      nextIs (step (atTeardown 9 .command true)) (fun t => t.seq.state == .idle) = true) :=
  ⟨⟨test_inv_atWindowSet, by decide⟩, ⟨test_inv_atArm, by decide⟩, ⟨test_inv_atRequestOn, by decide⟩,
    ⟨test_inv_atH9, by decide⟩⟩

/-- Also for InvariantKept, EngineInvariantKept and TxFullIsDead. -/
theorem test_witness_SingleWriterOfProfile :
    let s := atTeardown 7 .streaming false
    Inv s ∧ s.fillUnderWay ∧ s.spi.profile ≠ .command ∧
    nextIs (step s) (fun t => t.spi.profile == .command) = true :=
  ⟨test_inv_atH7, .inr rfl, by decide, by decide⟩

/-- The step latches the stream's request. -/
theorem test_witness_InvariantKept :
    EngineInv atRequestOn ∧ Inv atRequestOn ∧ nextIs (step atRequestOn) (fun t => t.dma.req) = true :=
  ⟨test_inv_atRequestOn.engine, test_inv_atRequestOn, by decide⟩

/-! ### A run (R9): the foreground halted, a completed fill's handler active, and every step of it a next state -/

/-- What keeps a run from a mark: no mark, the foreground halted, no stream running. -/
def markless (s : State) : Prop :=
  s.fault = none ∧ s.refused = none ∧ s.fg.halted = true ∧ s.dma.state ≠ .running

theorem test_markless_step {s : State} (h : markless s) : markless (liveStep s) := by
  have h' : markless s.takeTurn.2 := h
  unfold liveStep
  revert h'
  generalize s.takeTurn.2 = v
  generalize s.takeTurn.1 = τ
  rintro ⟨hf, hr, hh, hd⟩
  have settled (u : State) (h1 : u.fault = none) (h2 : u.refused = none) (h3 : u.fg.halted = true)
      (h4 : u.dma.state ≠ .running) : markless (v.settle (.next u)) := by
    obtain ⟨b, hb⟩ := u.endOfStep_dma
    exact ⟨by simp [State.settle, h1], by simp [State.settle, h2], by simp [State.settle, h3],
      by simp [State.settle, hb, h4]⟩
  cases τ <;> simp only [turnStep]
  case fg =>
    have : foregroundStep v = .next v := by simp [foregroundStep, hh]
    rw [this]; exact settled v hf hr hh hd
  case hd =>
    rcases handlerStep_cases v with e | ⟨status, r, -, e⟩ | ⟨j, status, r, j', t, -, -, ht, e⟩ <;> rw [e]
    · exact settled v hf hr hh hd
    · exact settled _ hf hr hh hd
    · obtain ⟨-, hfg, -, -, -, hf', hr', -⟩ := teardownStep_keeps ht
      obtain ⟨sr, hd', -⟩ := teardownStep_dma ht
      exact settled _ (hf'.trans hf) (hr'.trans hr) (by simpa [hfg] using hh) (by simpa [hd'] using hd)
  case ie => unfold entryStep; split <;> exact settled _ hf hr hh hd
  case deFetch =>
    have : fetchStep v = v := by simp [fetchStep, State.fetchEnabled, hd]
    rw [this]; exact settled v hf hr hh hd
  case deHandoff =>
    have : handoffStep v = .next v := by simp [handoffStep, State.handoffEnabled, hd]
    rw [this]; exact settled v hf hr hh hd
  case sh =>
    have k := shifterStep_keeps v
    exact settled _ (by simp [k, hf]) (by simp [k, hr]) (by simp [k, hh]) (by simp [k, hd])
  case env =>
    have : errorStep v = v := by simp [errorStep, hd]
    rw [this]; exact settled v hf hr hh hd

/-- H9 of a completed fill's teardown under a halted foreground. -/
def handling : State :=
  { atTeardown 9 .command true with fg := { (atTeardown 9 .command true).fg with halted := true } }

/-- The run from it. -/
def handlingRun (n : Nat) : State := Nat.rec handling (fun _ s => liveStep s) n

theorem test_inv_handling : Inv handling := by
  have h := test_inv_atH9
  have hp : handling.pending = (atTeardown 9 .command true).pending := rfl
  refine ⟨⟨h.base.1, h.base.2⟩, ?_, ?_, ?_⟩
  · obtain ⟨h1, h2, h3, h4, h5, h6, h7, h8, h9, h10⟩ := h.engine; constructor <;> assumption
  · obtain ⟨h1, h2, h3, h4, h5, h6, h7, h8, h9, h10, h11, h12, h13, h14⟩ := h.link
    constructor <;> first | assumption | skip
    · intro j status r e
      obtain ⟨a, b, c⟩ := h13 j status r e
      exact ⟨a, b, c.1, c.2, c.3, c.4, c.5, c.6, c.7⟩
    · exact fun h => absurd h.2 (by decide)
  · exact ⟨h.enable.1, h.enable.2, h.enable.3, h.enable.4⟩

theorem test_witness_EveryRunIsWeaklyFair :
    isRun handlingRun ∧ Inv (handlingRun 0) ∧ (handlingRun 0).hd ≠ .inactive := by
  have safe (n : Nat) : markless (handlingRun n) := by
    induction n with
    | zero => exact ⟨rfl, rfl, rfl, by decide⟩
    | succ n ih => exact test_markless_step ih
  exact ⟨fun n => by unfold step; rw [(safe n).1, (safe n).2.1]; rfl, test_inv_handling, by decide⟩

theorem test_witness_UnreadParametersAndHooks :
    nextIs (step { completed with hd := .active 10 0b00001 0, inp := ⟨[.hd], 0, [], 0⟩ })
      (fun t => t.trace.any Event.isHook) = true := by decide

theorem test_witness_TxFullIsDead : Inv atWindowSet ∧ atWindowSet.spi.profile = .command :=
  ⟨test_inv_atWindowSet, rfl⟩

end Sys2Proof.Tests
end

section
/-! PROOF. What a step of any agent does to the program, the parameters and the trace (spec/00_scope.md R4, R10;
spec/20_memory.md R83). -/

namespace Sys2Proof.Machine

/-! ### Continuing a state -/

/-- `t` has the program and the parameters of `s`, and its trace goes on from that of `s` (R4, R10, R83). -/
structure State.Continues (s t : State) : Prop where
  prog : t.prog = s.prog
  par : t.par = s.par
  trace : s.trace <+: t.trace

theorem State.Continues.refl (s : State) : s.Continues s := ⟨rfl, rfl, List.prefix_rfl⟩

theorem State.Continues.trans {s t u : State} (h : s.Continues t) (h' : t.Continues u) : s.Continues u :=
  ⟨h'.prog.trans h.prog, h'.par.trans h.par, h.trace.trans h'.trace⟩

/-- An update that writes none of the three continues its state. -/
theorem State.Continues.of_eq {s t : State} (hp : t.prog = s.prog) (hq : t.par = s.par) (ht : t.trace = s.trace) :
    s.Continues t := ⟨hp, hq, ht ▸ List.prefix_rfl⟩

theorem State.continues_emit (s : State) (e : Event) : s.Continues (s.emit e) :=
  ⟨rfl, rfl, List.prefix_append _ _⟩

theorem State.continues_giveResult (s : State) (v : Word) : s.Continues (s.giveResult v) :=
  ⟨rfl, rfl, List.prefix_append _ _⟩

theorem State.continues_callHook (s : State) (k : FlagKind) (r : Half) : s.Continues (s.callHook k r) :=
  ⟨by simp, by simp, by simp⟩

/-! ### The foreground -/

theorem Micro.continues_act (m : Micro) (s : State) : s.Continues (m.act s) := by
  obtain ⟨-, -, hprog, hpar, -⟩ := m.act_keeps s
  refine ⟨hprog, hpar, ?_⟩
  cases m
  case takeResult =>
    simp only [Micro.act]
    split
    · exact (s.dropRx.continues_giveResult _).trace
    · exact List.prefix_rfl
  all_goals exact List.prefix_rfl

theorem continues_startEffect (i : Instr) (s : State) : s.Continues (startEffect i s) := by
  obtain ⟨-, -, hprog, hpar, -⟩ := startEffect_keeps i s
  refine ⟨hprog, hpar, ?_⟩
  cases i
  case dmaIsReady | dmaStatus | seqState => exact (s.continues_giveResult _).trace
  case irqEnable => simp only [startEffect, State.enableSource]; split <;> exact List.prefix_rfl
  case lineSet | lineClear => simp [startEffect]
  case dmaConfig => simp only [startEffect]; split <;> exact List.prefix_rfl
  all_goals exact List.prefix_rfl

/-- H1 and H10 may call hooks; no other step of the teardown emits (R243, R246). -/
theorem continues_teardownStep {j j' : Nat} {status : BitVec 5} {r : Half} {s t : State}
    (h : teardownStep j status r s = some (j', t)) : s.Continues t := by
  obtain ⟨-, -, -, -, -, -, -, hprog, hpar, -⟩ := teardownStep_keeps h
  refine ⟨hprog, hpar, ?_⟩
  unfold teardownStep at h
  split at h
  case h_4 | h_6 | h_9 =>
    split at h <;> simp only [reduceCtorEq, Option.some.injEq, Prod.mk.injEq] at h
    obtain ⟨-, rfl⟩ := h
    exact List.prefix_rfl
  all_goals simp only [reduceCtorEq, Option.some.injEq, Prod.mk.injEq] at h
  all_goals obtain ⟨-, rfl⟩ := h
  case h_1 => rw [serviceErrors_eq]; exact List.prefix_append _ _
  case h_2 => rw [clearCompletion_eq]
  case h_10 =>
    split
    · exact (s.continues_callHook .tc r).trace
    · exact List.prefix_rfl
  all_goals exact List.prefix_rfl

theorem continues_handshake {s t : State} (h : execSeqHandshake s = .next t) : s.Continues t := by
  rcases handshake_next h with rfl | ⟨-, rfl⟩ | ⟨-, rfl⟩ | ⟨-, rfl⟩ | ⟨j', u, -, -, hu, rfl⟩
  · exact .refl _
  · exact .of_eq rfl rfl rfl
  · exact .of_eq rfl rfl rfl
  · exact .of_eq rfl rfl rfl
  · exact (continues_teardownStep hu).trans (.of_eq rfl rfl rfl)

theorem continues_exec {i : Instr} {s t : State} (h : exec i s = .next t) : s.Continues t := by
  cases exec_next h with
  | hold h => exact h ▸ .refl s
  | start hk pass h => exact h ▸ (continues_startEffect i s).trans (.of_eq rfl rfl rfl)
  | later n m hk hm ready h => exact h ▸ (m.continues_act s).trans (.of_eq rfl rfl rfl)
  | halt hi hk h => exact h ▸ (s.continues_emit .halt).trans (.of_eq rfl rfl rfl)
  | handshake hi h => exact continues_handshake h

/-! ### The other agents -/

theorem continues_foregroundStep {s t : State} (h : foregroundStep s = .next t) : s.Continues t := by
  rcases foregroundStep_next h with ⟨rfl, -⟩ | ⟨-, -, i, -, he⟩
  · exact .refl _
  · exact continues_exec he

theorem continues_handlerStep (s : State) : s.Continues (handlerStep s) := by
  rcases handlerStep_cases s with e | ⟨status, r, -, e⟩ | ⟨j, status, r, j', t, -, -, ht, e⟩ <;> rw [e]
  · exact .refl _
  · exact .of_eq rfl rfl rfl
  · exact (continues_teardownStep ht).trans (.of_eq rfl rfl rfl)

theorem continues_entryStep (s : State) : s.Continues (entryStep s) := by
  unfold entryStep
  split <;> exact .of_eq rfl rfl rfl

theorem continues_fetchStep (s : State) : s.Continues (fetchStep s) := by
  unfold fetchStep
  split
  · unfold State.fetchElement
    simp only
    split <;> exact .of_eq rfl rfl rfl
  · exact .refl s

/-- A handoff writes the stream and the transmit buffer only (R130 to R132). -/
theorem continues_handoffStep {s t : State} (h : handoffStep s = .next t) : s.Continues t := by
  unfold handoffStep at h
  split at h
  · split at h
    · cases h
    · obtain rfl := Host.Outcome.next.inj h
      unfold State.complete State.halfTransfer
      split <;> split <;> exact .of_eq rfl rfl rfl
  · obtain rfl := Host.Outcome.next.inj h
    exact .refl _

/-- The shifter emits the frame it ends (R170). -/
theorem continues_shifterStep (s : State) : s.Continues (shifterStep s) := by
  obtain ⟨-, -, -, -, -, -, -, -, -, -, hprog, hpar⟩ := shifterStep_keeps s
  refine ⟨hprog, hpar, ?_⟩
  unfold shifterStep
  split
  · split
    · simp only [State.emitFrame, State.receive]
      split <;> simp
    · exact List.prefix_rfl
    · exact List.prefix_rfl
  · exact List.prefix_rfl

/-- The environment's error step writes the stream and draws (R133). -/
theorem continues_errorStep (s : State) : s.Continues (errorStep s) := by
  unfold errorStep
  split
  · simp only
    split <;> exact .of_eq (by simp) (by simp) (by simp)
  · exact .refl s

/-! ### The machine step -/

/-- A turn of any agent keeps the program and the parameters, and emits at most at the trace's end. -/
theorem continues_turnStep {τ : Turn} {s t : State} (h : turnStep τ s = .next t) : s.Continues t := by
  cases τ <;> simp only [turnStep, Host.Outcome.next.injEq] at h
  case fg => exact continues_foregroundStep h
  case hd => exact h ▸ continues_handlerStep s
  case ie => exact h ▸ continues_entryStep s
  case deFetch => exact h ▸ continues_fetchStep s
  case deHandoff => exact continues_handoffStep h
  case sh => exact h ▸ continues_shifterStep s
  case env => exact h ▸ continues_errorStep s

/-- The end of a step: the edge rule emits nothing, and a mark adds its event (R8, R43, R168). -/
theorem State.continues_settle {s : State} {o : Outcome} (h : ∀ t, o = .next t → s.Continues t) :
    s.Continues (s.settle o) := by
  cases o with
  | next t => exact (h t rfl).trans (.of_eq (by simp [settle]) (by simp [settle]) (by simp [settle]))
  | fault f => exact ⟨rfl, rfl, List.prefix_append _ _⟩
  | refused r => exact ⟨rfl, rfl, List.prefix_append _ _⟩

theorem continues_liveStep (s : State) : s.Continues (liveStep s) :=
  (State.Continues.of_eq rfl rfl rfl : s.Continues s.takeTurn.2).trans
    (State.continues_settle fun _ h => continues_turnStep h)

/-- Every machine step keeps the program and the parameters, and its trace goes on from the one before. -/
theorem continues_step {s t : State} (h : step s = .next t) : s.Continues t := by
  obtain ⟨-, -, rfl⟩ := step_next h
  exact continues_liveStep s

end Sys2Proof.Machine

namespace Sys2Proof.Proofs

open Sys2Proof.Machine

/-- Settles O11: `continues_step` for every agent's step. -/
theorem programFixedTraceGrows : Obligations.ProgramFixedTraceGrows := by
  unfold Obligations.ProgramFixedTraceGrows
  refine ⟨fun s t h => ?_, fun s t h => ?_⟩
  · exact ⟨(continues_step h).prog, (continues_step h).par⟩
  · obtain ⟨es, he⟩ := (continues_step h).trace
    exact ⟨es, he.symm⟩

end Sys2Proof.Proofs
end

section
/-! PROOF. MemRead and MemWrite byte by byte (spec/20_memory.md R71, R72). -/

namespace Sys2Proof.Machine

/-! ### Bytes and numbers -/

/-- Least significant first, the byte at index i weighs 2^(8 i). -/
theorem ofBytesLE_map_range (f : Nat → Byte) (n : Nat) :
    ofBytesLE ((List.range n).map f) = ((List.range n).map fun i => (f i).toNat * 2 ^ (8 * i)).sum := by
  induction n generalizing f with
  | zero => rfl
  | succ n ih =>
    have shift : ∀ i, (f (i + 1)).toNat * 2 ^ (8 * (i + 1)) = 256 * ((f (i + 1)).toNat * 2 ^ (8 * i)) := by
      intro i; rw [Nat.mul_add, pow_add]; ring
    rw [List.range_succ_eq_map]
    simp only [List.map_cons, List.map_map, ofBytesLE, Function.comp_def, List.sum_cons, ih (fun i => f (i + 1)),
      Nat.succ_eq_add_one, shift, List.sum_map_mul_left]
    simp

/-- Reversed, the byte at index i of n weighs 2^(8 (n - 1 - i)). -/
theorem ofBytesLE_reverse_map_range (f : Nat → Byte) (n : Nat) :
    ofBytesLE ((List.range n).map f).reverse =
      ((List.range n).map fun i => (f i).toNat * 2 ^ (8 * (n - 1 - i))).sum := by
  induction n with
  | zero => rfl
  | succ n ih =>
    have shift : ∀ i ∈ List.range n,
        (f i).toNat * 2 ^ (8 * (n + 1 - 1 - i)) = 256 * ((f i).toNat * 2 ^ (8 * (n - 1 - i))) := by
      intro i hi
      have hn : 8 * (n + 1 - 1 - i) = 8 * (n - 1 - i) + 8 := by have := List.mem_range.1 hi; omega
      rw [hn, pow_add]; ring
    rw [List.range_succ]
    simp only [List.map_append, List.map_cons, List.map_nil, List.reverse_append, List.reverse_cons, List.reverse_nil,
      List.nil_append, List.singleton_append, ofBytesLE, ih, List.sum_append, List.map_congr_left shift,
      List.sum_map_mul_left]
    simp [Nat.add_comm]

@[simp] theorem inOrder_inOrder (o : ByteOrder) (bs : List Byte) : inOrder o (inOrder o bs) = bs := by
  cases o <;> simp [inOrder]

@[simp] theorem inOrder_length (o : ByteOrder) (bs : List Byte) : (inOrder o bs).length = bs.length := by
  cases o <;> simp [inOrder]

/-! ### MemRead after MemWrite -/

theorem bytesFrom_succ (m : Memory) (a : Word) (n : Nat) :
    bytesFrom m a (n + 1) = Memory.read m a.toNat :: bytesFrom m (a + 1) n := by
  unfold bytesFrom
  rw [List.range_succ_eq_map, List.map_cons, List.map_map]
  refine congrArg₂ List.cons (by simp) (List.map_congr_left fun i _ => ?_)
  have next : a + BitVec.ofNat 32 (i + 1) = a + 1 + BitVec.ofNat 32 i := by bv_omega
  exact congrArg (fun x : Word => Memory.read m x.toNat) next

/-- At most 2^32 stored bytes have distinct addresses, so each is read back (R71, R72). -/
theorem bytesFrom_storeBytes {m : Memory} {a : Word} {bs : List Byte} (h : Memory.wf m = true)
    (hn : bs.length ≤ 2 ^ 32) : bytesFrom (storeBytes m a bs) a bs.length = bs := by
  induction bs generalizing m a with
  | nil => rfl
  | cons b bs ih =>
    rw [List.length_cons] at hn
    have hw := Memory.wf_write (v := b) h a.isLt
    have kept : Memory.read (storeBytes (Memory.write m a.toNat b) (a + 1) bs) a.toNat = b := by
      rw [Memory.read_storeBytes_other hw, Memory.read_write_same _ _ h]
      intro i hi
      bv_omega
    rw [List.length_cons, bytesFrom_succ, storeBytes, kept, ih hw (by omega)]

theorem State.memRead_little {s : State} (h : s.par.memOrder = .little) (a : Word) (n : Nat) :
    s.memRead a n =
      ((List.range n).map fun i => (Memory.read s.mem (a + BitVec.ofNat 32 i).toNat).toNat * 2 ^ (8 * i)).sum := by
  rw [State.memRead, h]
  exact ofBytesLE_map_range _ n

theorem State.memRead_big {s : State} (h : s.par.memOrder = .big) (a : Word) (n : Nat) :
    s.memRead a n =
      ((List.range n).map fun i =>
        (Memory.read s.mem (a + BitVec.ofNat 32 i).toNat).toNat * 2 ^ (8 * (n - 1 - i))).sum := by
  rw [State.memRead, h]
  exact ofBytesLE_reverse_map_range _ n

/-- MemWrite(a, n, v) stores n bytes. -/
theorem storedBytes_length (o : ByteOrder) (n v : Nat) : (inOrder o (toBytesLE n v)).length = n := by
  rw [inOrder_length, toBytesLE_length]

theorem State.memRead_memWrite {s : State} (a : Word) {n v : Nat} (hn : n ≤ 2 ^ 32) (hv : v < 2 ^ (8 * n))
    (hw : Memory.wf s.mem = true) : (s.memWrite a n v).memRead a n = v := by
  have stored := bytesFrom_storeBytes (a := a) (bs := inOrder s.par.memOrder (toBytesLE n v)) hw
    (by rwa [storedBytes_length])
  rw [storedBytes_length] at stored
  rw [pow_mul, show 2 ^ 8 = 256 from rfl] at hv
  rw [State.memRead, State.memWrite_mem, State.memWrite_par, stored, inOrder_inOrder, ofBytesLE_toBytesLE,
    Nat.mod_eq_of_lt hv]

/-- MemWrite leaves every byte at another address alone. -/
theorem State.read_memWrite_other {s : State} {a : Word} {n x : Nat} (v : Nat) (hw : Memory.wf s.mem = true)
    (hx : ∀ i, i < n → x ≠ (a + BitVec.ofNat 32 i).toNat) :
    Memory.read (s.memWrite a n v).mem x = Memory.read s.mem x :=
  Memory.read_storeBytes_other hw (by rwa [storedBytes_length])

end Sys2Proof.Machine

namespace Sys2Proof.Proofs

open Sys2Proof.Machine

/-- Settles O15: `memRead_little` and `memRead_big` weigh the bytes, `memRead_memWrite` reads them back, and the byte order is a
parameter. -/
theorem memReadMemWrite : Obligations.MemReadMemWrite := by
  unfold Obligations.MemReadMemWrite
  refine ⟨fun s a n => ⟨fun h => ?_, fun h => ?_⟩, fun s a n v hn hv hw => ⟨?_, ?_, fun x hx => ?_⟩, fun s t h => ?_⟩
  · exact State.memRead_little h a n
  · exact State.memRead_big h a n
  · exact State.memRead_memWrite a hn hv hw
  · exact Memory.wf_storeBytes hw
  · exact State.read_memWrite_other v hw hx
  · rw [(continues_step h).par]

end Sys2Proof.Proofs
end

section
/-! PROOF. Operand words: what the decoder answers once a packet's row is found, its operand words are there and its header is
legal, and where it reads the fields of each operand word (spec/30_encoding.md R92, R94, R96 to R98). -/

namespace Sys2Proof

/-- Step (5) of R92: behind a legal header, with its operand words there, the row's `build` decides. -/
theorem decode_cons_of_legal_header {h : Word} {r : OpcodeRow} {ws : List Word} (rest : List Word)
    (row : findRow (opcOf h) = some r) (len : ws.length = r.len) (legal : h &&& r.mask = r.pattern) :
    decode (h :: (ws ++ rest)) = (r.build h ws).elim (.reject .reserved) .command := by
  have present : ¬ (ws ++ rest).length < r.len := by simp [len]
  have operands : (ws ++ rest).take r.len = ws := by rw [← len, List.take_left]
  simp only [decode, row, decodeRow, present, legal, operands, if_false, ne_eq, not_true]
  cases r.build h ws <;> rfl

/-- A command's header is legal, so the answer is its row's `build` on whatever operand words follow the header. -/
theorem Laws.Encoding.Statement.decode_header {i : Instr} (fits : Laws.Encoding.Statement i) {o : Byte} {r : OpcodeRow}
    {ws : List Word} (rest : List Word) (opc : opcOf ((encode i).headD 0) = o) (row : findRow o = some r)
    (len : ws.length = i.operandWords) :
    decode ((encode i).headD 0 :: (ws ++ rest)) = (r.build ((encode i).headD 0) ws).elim (.reject .reserved) .command := by
  obtain ⟨r', row', len', -, legal⟩ := fits
  rw [← opc] at row
  obtain rfl : r' = r := Option.some.inj (row'.symm.trans row)
  exact decode_cons_of_legal_header rest row (len.trans len'.symm) legal

/-! ### DMA.CONFIG (R96) -/

/-- The legal codes of ESIZE and BURST (R96). -/
theorem ctrlOf_wf_iff (w : Word) :
    (ctrlOf w).wf = true ↔ w.extractLsb' 4 2 ≠ 3 ∧ w.extractLsb' 6 2 ≠ 2 ∧ w.extractLsb' 6 2 ≠ 3 := by
  have codes : ∀ esize burst : BitVec 2,
      (esize != 3 && (burst == 0 || burst == 1)) = true ↔ esize ≠ 3 ∧ burst ≠ 2 ∧ burst ≠ 3 := by decide
  exact codes _ _

/-- FEN is bit 8 of the control word (R96). -/
theorem ctrlOf_fen (w : Word) : (ctrlOf w).fen = w.getLsbD 8 := by
  have bit : ∀ x : BitVec 1, (x == 1#1) = x.getLsbD 0 := by decide
  exact (bit _).trans (by simp)

/-- The operand words of DMA.CONFIG behind any stream id's header (R93, R96). -/
theorem decode_dmaConfig (stream : BitVec 3) (w1 w2 w3 w4 : Word) (rest : List Word) :
    decode (streamHeader 0x10 stream 0 :: w1 :: w2 :: w3 :: w4 :: rest) =
      (dmaConfigOf (streamHeader 0x10 stream 0) w1 w2 w3 w4).elim (.reject .reserved) .command :=
  (Laws.Encoding.dmaConfig stream (ctrlOf w1) w2 w3 (loHalf w4)).decode_header (ws := [w1, w2, w3, w4]) rest
    (opcOf_streamHeader _ _ _) rfl rfl

/-! ### Line ids and the other commands (R94, R97, R98) -/

/-- Line id 3 is reserved in LINE.SET and LINE.CLR alike (R94). -/
theorem decode_reserved_line (rest : List Word) :
    decode (0x0C030000 :: rest) = .reject .reserved ∧ decode (0x0D030000 :: rest) = .reject .reserved :=
  ⟨(decode_cons_of_legal_header (h := 0x0C030000) (ws := []) rest rfl rfl (by decide)).trans rfl,
    (decode_cons_of_legal_header (h := 0x0D030000) (ws := []) rest rfl rfl (by decide)).trans rfl⟩

theorem decode_seqWindow (w1 w2 : Word) (rest : List Word) :
    decode (0x30000000 :: w1 :: w2 :: rest) = .command (.seqWindow (windowOf w1 w2)) :=
  ((Laws.Encoding.seqWindow (windowOf w1 w2)).decode_header (ws := [w1, w2]) rest
    (opcOf_headerWord _ _ _) rfl rfl).trans rfl

theorem decode_seqFill (w1 : Word) (rest : List Word) :
    decode (0x31000000 :: w1 :: rest) = .command (.seqFill w1) :=
  ((Laws.Encoding.seqFill w1).decode_header (ws := [w1]) rest (opcOf_headerWord _ _ _) rfl rfl).trans rfl

theorem decode_seqFillWin (w1 w2 w3 : Word) (rest : List Word) :
    decode (0x32000000 :: w1 :: w2 :: w3 :: rest) = .command (.seqFillWin (windowOf w1 w2) w3) :=
  ((Laws.Encoding.seqFillWin (windowOf w1 w2) w3).decode_header (ws := [w1, w2, w3]) rest
    (opcOf_headerWord _ _ _) rfl rfl).trans rfl

theorem decode_seqFillCtr (w1 w2 : Word) (rest : List Word) :
    decode (0x33000000 :: w1 :: w2 :: rest) = .command (.seqFillCtr (loHalf w1) (hiHalf w1) w2) :=
  ((Laws.Encoding.seqFillCtr (loHalf w1) (hiHalf w1) w2).decode_header (ws := [w1, w2]) rest
    (opcOf_headerWord _ _ _) rfl rfl).trans rfl

theorem decode_memWr16 (v : Half) (w1 : Word) (rest : List Word) :
    decode (headerWord 0x0E 0 v :: w1 :: rest) = .command (.memWr16 v w1) := by
  have answer := (Laws.Encoding.memWr16 v w1).decode_header (ws := [w1]) rest (opcOf_headerWord _ _ _) rfl rfl
  exact answer.trans (by simp [encode])

end Sys2Proof

namespace Sys2Proof.Proofs

/-- Settles O5: `decode_dmaConfig` and `ctrlOf_wf_iff` for the control word, `decode_reserved_line` for the line id, and one
equation for each of the other commands with operands. -/
theorem operandWords : Obligations.OperandWords := by
  unfold Obligations.OperandWords
  refine ⟨⟨fun stream w1 w2 w3 w4 rest => ⟨fun reserved => ?_, fun mask esize burst2 burst3 high => ?_⟩,
    decode_reserved_line⟩, fun w1 w2 w3 v rest => ⟨?_, ?_, ?_, ?_, ?_⟩⟩
  · have refused : ¬ (w1 &&& ctrlReservedMask = 0 ∧ (ctrlOf w1).wf = true ∧ hiHalf w4 = 0) := by
      rw [ctrlOf_wf_iff, ctrlReservedMask, hiHalf]
      tauto
    rw [decode_dmaConfig, dmaConfigOf, if_neg refused]
    rfl
  · have legal : w1 &&& ctrlReservedMask = 0 ∧ (ctrlOf w1).wf = true ∧ hiHalf w4 = 0 :=
      ⟨mask, (ctrlOf_wf_iff w1).2 ⟨esize, burst2, burst3⟩, high⟩
    rw [decode_dmaConfig, dmaConfigOf, if_pos legal, streamOf_streamHeader, ← ctrlOf_fen]
    rfl
  · exact decode_seqWindow w1 w2 rest
  · exact decode_seqFillWin w1 w2 w3 rest
  · exact decode_seqFillCtr w1 w2 rest
  · exact decode_seqFill w1 rest
  · exact decode_memWr16 v w1 rest

end Sys2Proof.Proofs
end

section
/-! PROOF. The DMA engine's fetch and handoff steps: when each is enabled and what it does (spec/40_dma.md R126, R127,
R129 to R132). -/

namespace Sys2Proof.Machine

/-! ### Fetch (R129) -/

/-- The enabling condition of R129 with the window of R127. -/
theorem State.fetchEnabled_iff (s : State) :
    s.fetchEnabled = true ↔
      s.dma.state = .running ∧ s.dma.fetched.toNat < s.dma.ndtCfg.toNat ∧
      s.dma.fetched.toNat - s.dma.handed.toNat < (if s.dma.fen then s.par.fifoDepth else 1) := by
  simp only [State.fetchEnabled, Bool.and_eq_true, decide_eq_true_iff, and_assoc]
  rfl

theorem fetchStep_of_enabled {s : State} (h : s.fetchEnabled = true) : fetchStep s = s.fetchElement := if_pos h

theorem fetchStep_of_not_enabled {s : State} (h : ¬ s.fetchEnabled = true) : fetchStep s = s := if_neg h

/-- An admitted element goes to the FIFO's end, read at the address of R126. -/
theorem State.fetchElement_of_admitted {s : State}
    (h : s.par.admits (elementAddr s.dma s.dma.fetched.toNat) s.dma.esize.bytes = true) :
    s.fetchElement =
      { s with
        dma :=
          { s.dma with
            fifo := s.dma.fifo ++
              [BitVec.ofNat 32 (s.memRead (elementAddr s.dma s.dma.fetched.toNat) s.dma.esize.bytes)]
            fetched := s.dma.fetched + 1 } } := if_pos h

/-- An unadmitted read raises TE, and the stream stops with its counters kept. -/
theorem State.fetchElement_of_not_admitted {s : State}
    (h : s.par.admits (elementAddr s.dma s.dma.fetched.toNat) s.dma.esize.bytes = false) :
    s.fetchElement = (s.raiseFlag .te).abortStream := if_neg (by simp [h])

/-! ### Handoff (R130 to R132) -/

/-- The enabling condition of R130. -/
theorem State.handoffEnabled_iff (s : State) :
    s.handoffEnabled = true ↔
      s.dma.state = .running ∧ s.dma.req = true ∧ s.dma.fifo ≠ [] ∧ s.spi.txBuf = none := by
  simp [State.handoffEnabled, State.txe, and_assoc]

theorem handoffStep_of_not_enabled {s : State} (h : ¬ s.handoffEnabled = true) : handoffStep s = .next s := if_neg h

/-- A streaming link's frame has 16 bits (R161), so half-word elements alone fit it. -/
theorem linkWidth_streaming_eq_iff (p : Params) (e : ElemSize) :
    linkWidth p .streaming = some (8 * e.bytes) ↔ e = .half := by
  cases e <;> simp [linkWidth, linkFields, ElemSize.bytes]

/-- The check of R130 before the write, with the frame width of R161. -/
theorem handoffStep_of_enabled {s : State} (h : s.handoffEnabled = true) :
    handoffStep s =
      if s.spi.profile ≠ .streaming ∨ s.dma.esize ≠ .half then .fault .width
      else .next s.handElement.halfTransfer.complete := by
  simp only [handoffStep, h, ne_eq, linkWidth_streaming_eq_iff, if_true]

theorem handoffStep_width {s : State} (h : s.handoffEnabled = true)
    (misfit : s.spi.profile ≠ .streaming ∨ s.dma.esize ≠ .half) : handoffStep s = .fault .width := by
  rw [handoffStep_of_enabled h, if_pos misfit]

theorem handoffStep_hands {s : State} (h : s.handoffEnabled = true) (streaming : s.spi.profile = .streaming)
    (half : s.dma.esize = .half) : handoffStep s = .next s.handElement.halfTransfer.complete := by
  have fits : ¬ (s.spi.profile ≠ .streaming ∨ s.dma.esize ≠ .half) := by simp [streaming, half]
  rw [handoffStep_of_enabled h, if_neg fits]

/-- The head of the FIFO is the frame, and the rest stays. -/
theorem State.handElement_of_fifo {s : State} {v : Word} {vs : List Word} (fifo : s.dma.fifo = v :: vs) :
    s.handElement =
      { s with
        spi := { s.spi with txBuf := some (.f16 (v.setWidth 16)) }
        dma := { s.dma with fifo := vs, req := false, handed := s.dma.handed + 1, ndt := s.dma.ndt - 1 } } := by
  simp [handElement, fifoHead, fifo]

/-- The flags the half-transfer test sets for a new counter value `n` (R132). -/
def halfFlag (n ndtCfg : Half) : BitVec 5 := if n.toNat = ndtCfg.toNat / 2 then 0b00010 else 0

/-- R132 writes the flags only. -/
theorem State.halfTransfer_eq (s : State) :
    s.halfTransfer = { s with dma := { s.dma with sr := s.dma.sr ||| halfFlag s.dma.ndt s.dma.ndtCfg } } := by
  unfold halfTransfer halfFlag
  split
  · rfl
  · simp

/-- R131 has no effect on a stream with elements left. -/
theorem State.complete_of_ndt_ne_zero {s : State} (h : s.dma.ndt ≠ 0) : s.complete = s := if_neg h

theorem State.complete_of_ndt_eq_zero {s : State} (h : s.dma.ndt = 0) :
    s.complete = { s with dma := { s.dma with sr := s.dma.sr ||| 0b00001, en := false, state := .complete } } :=
  if_pos h

end Sys2Proof.Machine

namespace Sys2Proof.Proofs

open Sys2Proof.Machine

/-- Settles O30: `fetchEnabled_iff`, and `fetchElement` for an admitted and an unadmitted read. -/
theorem fetchStep : Obligations.FetchStep := by
  unfold Obligations.FetchStep
  intro s a enabled
  have enabled_iff : s.fetchEnabled = true ↔ enabled := s.fetchEnabled_iff
  refine ⟨fun on admitted => ?_, fun on refused => ?_, fun off => ?_⟩
  · rw [fetchStep_of_enabled (enabled_iff.2 on)]
    exact State.fetchElement_of_admitted admitted
  · rw [fetchStep_of_enabled (enabled_iff.2 on)]
    exact State.fetchElement_of_not_admitted refused
  · exact fetchStep_of_not_enabled (mt enabled_iff.1 off)

/-- Settles O31: `handoffEnabled_iff`, `handoffStep_width` for a misfit, and for a handoff `handElement_of_fifo` with
the half-transfer test of R132 and the completion test of R131 after it. -/
theorem handoffStep : Obligations.HandoffStep := by
  unfold Obligations.HandoffStep
  refine ⟨fun s empty => ?_, fun s v vs fifo => ?_⟩
  · refine handoffStep_of_not_enabled fun on => ?_
    obtain ⟨-, -, filled, -⟩ := s.handoffEnabled_iff.1 on
    exact filled empty
  · intro enabled n half
    have enabled_iff : s.handoffEnabled = true ↔ enabled := by simp [State.handoffEnabled_iff, fifo, enabled]
    refine ⟨fun on misfit => ?_, fun on streaming wide more => ?_, fun on streaming wide last => ?_, fun off => ?_⟩
    · exact handoffStep_width (enabled_iff.2 on) misfit
    · rw [handoffStep_hands (enabled_iff.2 on) streaming wide, State.handElement_of_fifo fifo, State.halfTransfer_eq,
        State.complete_of_ndt_ne_zero more]
      rfl
    · rw [handoffStep_hands (enabled_iff.2 on) streaming wide, State.handElement_of_fifo fifo, State.halfTransfer_eq,
        State.complete_of_ndt_eq_zero last]
      rfl
    · exact handoffStep_of_not_enabled (mt enabled_iff.1 off)

end Sys2Proof.Proofs
end

section
/-! PROOF. The request edge at the end of a step, and the shifter's steps (spec/40_dma.md R135; spec/41_spi.md R168, R170,
R171). -/

namespace Sys2Proof.Machine

/-! ### The request edge (R135, R168) -/

/-- A gate that does not rise delivers nothing: the end of the step writes GPREV only. -/
theorem State.endOfStep_of_not_rising {s : State} (h : s.gate = false ∨ s.spi.gPrev = true) :
    s.endOfStep = { s with spi := { s.spi with gPrev := s.gate } } := by
  have still : (s.gate && !s.spi.gPrev) = false := by rcases h with h | h <;> simp [h]
  simp [State.endOfStep, still]

/-- A gate that rises delivers one pulse. -/
theorem State.endOfStep_of_rising {s : State} (high : s.gate = true) (low : s.spi.gPrev = false) :
    s.endOfStep = { s.deliverRequest with spi := { s.spi with gPrev := true } } := by
  simp [State.endOfStep, high, low]

/-- A pulse is lost on a stream of another channel. -/
theorem State.deliverRequest_of_other_channel {s : State} (h : s.dma.chsel ≠ s.par.spiTxChannel) :
    s.deliverRequest = s := if_pos h

/-- A pulse to a stream that does not run is kept or lost by the draw. -/
theorem State.deliverRequest_of_not_running {s : State} (channel : s.dma.chsel = s.par.spiTxChannel)
    (idle : s.dma.state ≠ .running) :
    s.deliverRequest =
      { s with
        dma := { s.dma with req := s.dma.req || byteToBool s.drawByte.1 }
        inp := s.drawByte.2.inp } := by
  simp [State.deliverRequest, channel, idle]

/-! ### The shifter (R170, R171) -/

/-- CommandMode alone receives (R171). -/
theorem linkReceives_iff (p : Params) (q : Profile) : linkReceives p q = true ↔ q = .command := by
  cases q <;> simp [linkReceives, linkFields]

theorem State.receive_of_command {s : State} (h : s.spi.profile = .command) :
    s.receive = { s with spi := { s.spi with rxBuf := some s.drawByte.1 }, inp := s.drawByte.2.inp } := by
  simp [State.receive, (linkReceives_iff _ _).2 h]

theorem State.receive_of_not_command {s : State} (h : s.spi.profile ≠ .command) : s.receive = s :=
  if_neg (mt (linkReceives_iff _ _).1 h)

/-- A link without SPE, or with nothing to send, holds the shifter. -/
theorem shifterStep_of_hold {s : State} (h : s.spi.spe = false ∨ (s.spi.shift = none ∧ s.spi.txBuf = none)) :
    shifterStep s = s := by
  rcases h with off | ⟨empty, idle⟩
  · simp [shifterStep, off]
  · simp [shifterStep, empty, idle]

theorem shifterStep_of_load {s : State} {f : Frame} (on : s.spi.spe = true) (empty : s.spi.shift = none)
    (waiting : s.spi.txBuf = some f) : shifterStep s = s.loadShift f := by
  simp [shifterStep, on, empty, waiting]

theorem shifterStep_of_emit {s : State} {x : Shifting} (on : s.spi.spe = true) (shifting : s.spi.shift = some x) :
    shifterStep s = s.emitFrame x := by
  simp [shifterStep, on, shifting]

end Sys2Proof.Machine

namespace Sys2Proof.Proofs

open Sys2Proof.Machine

/-- Settles O39: `endOfStep_of_not_rising` for a still gate, and for a rising one where `deliverRequest` loses, latches or draws
for the pulse. -/
theorem requestEdge : Obligations.RequestEdge := by
  unfold Obligations.RequestEdge
  intro s g gateValue
  obtain rfl : g = s.gate := gateValue
  refine ⟨fun lost => ?_, fun high low channel running => ?_, fun high low channel idle => ?_⟩
  · by_cases still : s.gate = false ∨ s.spi.gPrev = true
    · exact State.endOfStep_of_not_rising still
    · obtain ⟨high, low⟩ : s.gate = true ∧ s.spi.gPrev = false := by simpa using still
      have other : s.dma.chsel ≠ s.par.spiTxChannel := by simpa [high, low] using lost
      rw [State.endOfStep_of_rising high low, State.deliverRequest_of_other_channel other, high]
  · rw [State.endOfStep_rise high low channel running, high]
  · refine ⟨byteToBool s.drawByte.1, s.drawByte.2.inp, ?_⟩
    rw [State.endOfStep_of_rising high low, State.deliverRequest_of_not_running channel idle, high]

/-- Settles O40: `shifterStep_of_hold`, `shifterStep_of_load` and `shifterStep_of_emit`, the emit with or without a received
byte. -/
theorem shifterSteps : Obligations.ShifterSteps := by
  unfold Obligations.ShifterSteps
  refine fun s => ⟨shifterStep_of_hold, fun f on empty waiting => ?_, fun x on shifting mute => ?_,
    fun x on shifting command => ?_⟩
  · exact shifterStep_of_load on empty waiting
  · rw [shifterStep_of_emit on shifting]
    exact State.receive_of_not_command mute
  · rw [shifterStep_of_emit on shifting]
    exact ⟨_, _, State.receive_of_command command⟩

end Sys2Proof.Proofs
end

section
/-! PROOF. Windows, their pixel counts and the centered windows (spec/42_sequencer.md R191, R192, R197). -/

namespace Sys2Proof

/-- R191, as inequalities of the coordinates. -/
theorem Window.valid_iff (w : Window) :
    w.valid = true ↔
      w.xs.toNat ≤ w.xe.toNat ∧ w.xe.toNat < 240 ∧ w.ys.toNat ≤ w.ye.toNat ∧ w.ye.toNat < 320 := by
  simp [valid, and_assoc]

/-- R192: inclusive bounds, so even the smallest window has a pixel. -/
theorem Window.one_le_pixelCount (w : Window) : 1 ≤ w.pixelCount :=
  Nat.mul_pos (Nat.succ_pos _) (Nat.succ_pos _)

/-- R192: a valid window has at most the panel's pixels. -/
theorem Window.pixelCount_le {w : Window} (valid : w.valid = true) : w.pixelCount ≤ 76800 := by
  obtain ⟨-, right, -, bottom⟩ := w.valid_iff.1 valid
  calc w.pixelCount
    _ ≤ 240 * 320 := Nat.mul_le_mul (by omega) (by omega)
    _ = 76800 := rfl

/-- R197's bounds of a size. -/
theorem centerSizeValid_iff (w h : Half) :
    centerSizeValid w h = true ↔ 1 ≤ w.toNat ∧ w.toNat ≤ 240 ∧ 1 ≤ h.toNat ∧ h.toNat ≤ 320 := by
  simp [centerSizeValid, and_assoc]

/-! ### The coordinates of R197 fit into 16 bits, whatever the size -/

@[simp] theorem centeredWindow_xs (w h : Half) : (centeredWindow w h).xs.toNat = (240 - w.toNat) / 2 :=
  Nat.mod_eq_of_lt (show (240 - w.toNat) / 2 < 2 ^ 16 by omega)

@[simp] theorem centeredWindow_xe (w h : Half) :
    (centeredWindow w h).xe.toNat = (240 - w.toNat) / 2 + w.toNat - 1 :=
  Nat.mod_eq_of_lt (show (240 - w.toNat) / 2 + w.toNat - 1 < 2 ^ 16 by omega)

@[simp] theorem centeredWindow_ys (w h : Half) : (centeredWindow w h).ys.toNat = (320 - h.toNat) / 2 :=
  Nat.mod_eq_of_lt (show (320 - h.toNat) / 2 < 2 ^ 16 by omega)

@[simp] theorem centeredWindow_ye (w h : Half) :
    (centeredWindow w h).ye.toNat = (320 - h.toNat) / 2 + h.toNat - 1 :=
  Nat.mod_eq_of_lt (show (320 - h.toNat) / 2 + h.toNat - 1 < 2 ^ 16 by omega)

/-- R197: the centered window of a valid size lies on the panel. -/
theorem centeredWindow_valid {w h : Half} (size : centerSizeValid w h = true) : (centeredWindow w h).valid = true := by
  obtain ⟨wide, narrow, tall, short⟩ := (centerSizeValid_iff w h).1 size
  simp only [Window.valid_iff, centeredWindow_xs, centeredWindow_xe, centeredWindow_ys, centeredWindow_ye]
  omega

/-- From any start, `n` coordinates are as many as the inclusive bounds of R192 count. -/
theorem inclusive_length {n : Nat} (start : Nat) (h : 1 ≤ n) : start + n - 1 - start + 1 = n := by omega

/-- R197: the centered window of a valid size has as many pixels as the size says. -/
theorem centeredWindow_pixelCount {w h : Half} (size : centerSizeValid w h = true) :
    (centeredWindow w h).pixelCount = w.toNat * h.toNat := by
  obtain ⟨wide, -, tall, -⟩ := (centerSizeValid_iff w h).1 size
  simp only [Window.pixelCount, centeredWindow_xs, centeredWindow_xe, centeredWindow_ys, centeredWindow_ye,
    inclusive_length _ wide, inclusive_length _ tall]

end Sys2Proof

namespace Sys2Proof.Proofs

/-- Settles O41: `Window.valid_iff` with the bounds of the pixel count, and `centerSizeValid_iff` with `centeredWindow_valid`,
`centeredWindow_pixelCount` and the four coordinates. -/
theorem windowGeometry : Obligations.WindowGeometry := by
  unfold Obligations.WindowGeometry
  refine ⟨fun w => ⟨w.valid_iff, fun valid => ⟨rfl, w.one_le_pixelCount, Window.pixelCount_le valid⟩⟩,
    fun w h => ⟨centerSizeValid_iff w h, fun size => ?_⟩⟩
  exact ⟨centeredWindow_valid size, centeredWindow_pixelCount size, centeredWindow_xs w h, centeredWindow_xe w h,
    centeredWindow_ys w h, centeredWindow_ye w h⟩

end Sys2Proof.Proofs
end

section
/-! PROOF. Which agent can stop the machine, and how (spec/60_exceptions.md R250 to R252; spec/40_dma.md R120, R125, R130). -/

namespace Sys2Proof.Machine

/-! ### The foreground's commands -/

/-- The check that decides has failed and is one of the list. -/
theorem mem_of_firstStop {cs : List (Bool × Stop)} {how : Stop} (h : firstStop cs = some how) : (true, how) ∈ cs := by
  induction cs with
  | nil => cases h
  | cons c cs ih =>
    obtain ⟨fails, ends⟩ := c
    cases fails with
    | false => exact List.mem_cons_of_mem _ (ih h)
    | true =>
      obtain rfl : ends = how := Option.some.inj h
      exact List.mem_cons_self

/-- SEQ.HANDSHAKE has no check: each of its micro-steps goes on or holds (R199). -/
theorem execSeqHandshake_goes_on (s : State) : ∃ t, execSeqHandshake s = .next t := by
  unfold execSeqHandshake
  split_ifs
  case neg => split <;> exact ⟨_, rfl⟩
  all_goals exact ⟨_, rfl⟩

/-- A micro-step goes on or holds, or it is µ1 and a failed check of its command stops it (R13, R167, R251). -/
theorem exec_next_or_stop (i : Instr) (s : State) :
    (∃ t, exec i s = .next t) ∨ ∃ how, (true, how) ∈ startChecks i s ∧ exec i s = how.outcome := by
  by_cases hs : i = .seqHandshake
  · exact .inl (hs ▸ execSeqHandshake_goes_on s)
  match hk : s.fg.k with
  | 0 => exact .inl ⟨s, exec_zero hk⟩
  | 1 =>
    by_cases hh : i = .ctlHalt
    · exact .inl ⟨_, hh ▸ exec_halt hk⟩
    · rw [exec_start hk hh hs]
      split
      · exact .inl ⟨_, rfl⟩
      · exact .inr ⟨_, mem_of_firstStop ‹_›, rfl⟩
  | n + 2 =>
    rw [exec_later hk hs]
    split
    · exact .inl ⟨_, rfl⟩
    · split <;> exact .inl ⟨_, rfl⟩

/-- Two checks refuse: that of DMA.DISABLE on a running stream, and that of DMA.CONFIG on the destination (R120, R125). -/
theorem startChecks_refuse {i : Instr} {s : State} {fails : Bool} {r : Refusal}
    (h : (fails, .refuse r) ∈ startChecks i s) : r = .cancel ∨ r = .dst := by
  cases i
  case dmaDisable =>
    obtain ⟨-, rfl⟩ : fails = decide (s.dma.state = .running) ∧ r = .cancel := by
      simpa [startChecks, dmaDisableChecks, wrongStream, exclusion] using h
    exact .inl rfl
  case dmaConfig stream ctrl src dst count =>
    simp only [startChecks] at h
    split at h
    · obtain ⟨-, rfl⟩ : fails = (dst != s.par.spiDrAddr) ∧ r = .dst := by
        simpa [dmaConfigChecks, configDescriptor, wrongStream, exclusion] using h
      exact .inr rfl
    · simp at h
  all_goals
    simp [startChecks, memWr16Checks, dmaStartChecks, spiConfigChecks, spiXchgChecks, seqWindowChecks, seqFillChecks,
      fillWindowChecks, windowLinkChecks, bufferChecks, notReadyCheck, idleCheck, wrongStream, exclusion] at h

/-- A command refuses with one of the two refusals of the spec (R120, R125). -/
theorem exec_refused {i : Instr} {s : State} {r : Refusal} (h : exec i s = .refused r) : r = .cancel ∨ r = .dst := by
  rcases exec_next_or_stop i s with ⟨t, ht⟩ | ⟨how, failed, stops⟩
  · cases ht.symm.trans h
  · cases how with
    | fault f => cases stops.symm.trans h
    | refuse r' =>
      obtain rfl : r' = r := Host.Outcome.refused.inj (stops.symm.trans h)
      exact startChecks_refuse failed

/-! ### The agents' turns -/

/-- A hold and a decode fault are no refusal, so the foreground refuses as its command does. -/
theorem foregroundStep_refused {s : State} {r : Refusal} (h : foregroundStep s = .refused r) :
    r = .cancel ∨ r = .dst := by
  unfold foregroundStep at h
  split at h
  · cases h
  · split at h
    · cases h
    · exact exec_refused h

/-- The handoff's one fault is F_WIDTH (R130). -/
theorem handoffStep_next_or_width (s : State) : (∃ t, handoffStep s = .next t) ∨ handoffStep s = .fault .width := by
  by_cases on : s.handoffEnabled = true
  · rw [handoffStep_of_enabled on]
    split
    · exact .inr rfl
    · exact .inl ⟨_, rfl⟩
  · exact .inl ⟨s, handoffStep_of_not_enabled on⟩

/-- The turn of any agent but the foreground goes on or holds, but for the handoff's F_WIDTH (R252). -/
theorem turnStep_next_or_width {τ : Turn} (other : τ ≠ .fg) (s : State) :
    (∃ t, turnStep τ s = .next t) ∨ (τ = .deHandoff ∧ turnStep τ s = .fault .width) := by
  cases τ with
  | fg => exact absurd rfl other
  | deHandoff => exact (handoffStep_next_or_width s).imp_right fun h => ⟨rfl, h⟩
  | hd | ie | deFetch | sh | env => exact .inl ⟨_, rfl⟩

end Sys2Proof.Machine

namespace Sys2Proof.Proofs

open Sys2Proof.Machine

/-- Settles O10: `foregroundStep_refused` for the foreground's turn, `turnStep_next_or_width` for every other agent's. -/
theorem onlyTheseAgentsStop : Obligations.OnlyTheseAgentsStop := by
  unfold Obligations.OnlyTheseAgentsStop
  intro τ s
  by_cases turn : τ = .fg
  · subst turn
    exact ⟨fun _ _ => .inl rfl, fun _ h => ⟨rfl, foregroundStep_refused h⟩⟩
  · rcases turnStep_next_or_width turn s with ⟨t, ht⟩ | ⟨handoff, hw⟩
    · rw [ht]
      exact ⟨nofun, nofun⟩
    · rw [hw]
      exact ⟨fun f h => .inr ⟨handoff, (Host.Outcome.fault.inj h).symm⟩, nofun⟩

end Sys2Proof.Proofs
end

section
/-! PROOF. The interrupt line, the entry, and the handler's run without a teardown (spec/60_exceptions.md R240 to R246, R249). -/

namespace Sys2Proof.Machine

/-! ### The interrupt line and the entry (R240 to R242) -/

/-- Every bit of a flag word is a flag's (R28). -/
theorem FlagKind.exists_bit : ∀ n : Nat, n < 5 → ∃ k : FlagKind, k.bit = n
  | 0, _ => ⟨.tc, rfl⟩
  | 1, _ => ⟨.ht, rfl⟩
  | 2, _ => ⟨.te, rfl⟩
  | 3, _ => ⟨.dme, rfl⟩
  | 4, _ => ⟨.fe, rfl⟩
  | n + 5, h => absurd h (by omega)

@[simp] theorem hasFlag_and (v w : BitVec 5) (k : FlagKind) : hasFlag (v &&& w) k = (hasFlag v k && hasFlag w k) :=
  BitVec.getLsbD_and

/-- A flag word is not zero exactly when it has a flag. -/
theorem ne_zero_iff_exists_hasFlag (v : BitVec 5) : v ≠ 0 ↔ ∃ k : FlagKind, hasFlag v k = true := by
  constructor
  · intro nonzero
    by_contra flagless
    simp only [not_exists, Bool.not_eq_true] at flagless
    refine nonzero (BitVec.eq_of_getLsbD_eq fun n hn => ?_)
    obtain ⟨k, rfl⟩ := FlagKind.exists_bit n hn
    exact (flagless k).trans BitVec.getLsbD_zero.symm
  · rintro ⟨k, hk⟩ rfl
    simp [hasFlag] at hk

/-- R240: the line is the OR of the enabled flags. -/
theorem State.irqLine_iff (s : State) :
    s.irqLine = true ↔ ∃ k : FlagKind, hasFlag s.dma.sr k = true ∧ hasFlag s.dma.ie k = true := by
  simp only [State.irqLine, bne_iff_ne, ne_zero_iff_exists_hasFlag, hasFlag_and, Bool.and_eq_true]

/-- R241. -/
theorem State.takeable_iff (s : State) :
    s.takeable = true ↔
      s.fault = none ∧ s.refused = none ∧ s.hd = .inactive ∧ s.irq.srcEn = true ∧ s.irq.masked = false ∧
      s.irqLine = true := by
  simp [State.takeable, and_assoc]

/-! ### A run of the handler's steps -/

/-- A handler step that leaves GPREV at the gate's value uses up one turn of the schedule. -/
theorem runSteps_hd {s t : State} {ts : List Turn} {n : Nat} (hf : s.fault = none) (hr : s.refused = none)
    (h : handlerStep (s.scheduled ts) = t.scheduled ts) (gate : t.spi.gPrev = t.gate) :
    runSteps (n + 1) (s.scheduled (.hd :: ts)) = runSteps n (t.scheduled ts) :=
  runSteps_succ (step_turn_kept hf hr rfl (congrArg Host.Outcome.next h) gate)

/-- A step of the teardown, run by the handler. -/
theorem handlerStep_of_teardownStep {s t : State} {j j' : Nat} {status : BitVec 5} {r : Half}
    (active : s.hd = .active j status r) (before : j ≠ 11) (h : teardownStep j status r s = some (j', t)) :
    handlerStep s = { t with hd := .active j' status r } := by
  simp only [handlerStep, active, if_neg before, h]

/-- The hook events of an activation for the kinds in `ks` (R244, R246). -/
def hookEvents (p : Params) (ks : List FlagKind) (status : BitVec 5) (r : Half) : List Event :=
  if p.hookPresent then (ks.filter (hasFlag status)).map (fun k => .hook k r) else []

theorem hookEvents_append (p : Params) (ks ls : List FlagKind) (status : BitVec 5) (r : Half) :
    hookEvents p ks status r ++ hookEvents p ls status r = hookEvents p (ks ++ ls) status r := by
  unfold hookEvents
  split <;> simp

/-- H10 as one update: the completion's hook, when the status has its flag (R246). -/
theorem completionHook_eq (status : BitVec 5) (r : Half) (s : State) :
    (if hasFlag status .tc then s.callHook .tc r else s) =
      { s with trace := s.trace ++ hookEvents s.par [.tc] status r } := by
  cases flag : hasFlag status .tc <;> cases present : s.par.hookPresent <;>
    simp [flag, present, State.callHook, State.emit, hookEvents]

/-- The state after H1: the error and half-transfer flags of the status cleared, their hooks called (R244). -/
def State.afterH1 (s : State) (status : BitVec 5) (r : Half) : State :=
  { s with
    hd := .active 2 status r
    dma := { s.dma with sr := s.dma.sr &&& ~~~(status &&& 0b11110) }
    trace := s.trace ++ hookEvents s.par [.te, .dme, .fe, .ht] status r }

/-- The state after H2 without the guard: the completion flag of the status cleared, H10 next (R245). -/
def State.afterH2Unguarded (s : State) (status : BitVec 5) (r : Half) : State :=
  { s with
    hd := .active 10 status r
    dma := { s.dma with sr := s.dma.sr &&& ~~~(status &&& 0b00001) } }

/-- The state after H10: the completion's hook called (R246). -/
def State.afterH10 (s : State) (status : BitVec 5) (r : Half) : State :=
  { s with
    hd := .active 11 status r
    trace := s.trace ++ hookEvents s.par [.tc] status r }

theorem handlerStep_H1 {s : State} {status : BitVec 5} {r : Half} (active : s.hd = .active 1 status r) :
    handlerStep s = s.afterH1 status r := by
  rw [handlerStep_of_teardownStep active (by decide) rfl, serviceErrors_eq]
  rfl

theorem handlerStep_H2_unguarded {s : State} {status : BitVec 5} {r : Half} (active : s.hd = .active 2 status r)
    (guard : hasFlag status .tc = false ∨ s.seq.state ≠ .streaming) :
    handlerStep s = s.afterH2Unguarded status r := by
  have unguarded : teardownGuard status s = false := by
    rcases guard with incomplete | still
    · simp [teardownGuard, incomplete]
    · simp [teardownGuard, still]
  rw [handlerStep_of_teardownStep active (by decide) rfl, clearCompletion_eq, unguarded]
  rfl

theorem handlerStep_H10 {s : State} {status : BitVec 5} {r : Half} (active : s.hd = .active 10 status r) :
    handlerStep s = s.afterH10 status r := by
  rw [handlerStep_of_teardownStep active (by decide) rfl, completionHook_eq]
  rfl

theorem handlerStep_H11 {s : State} {status : BitVec 5} {r : Half} (active : s.hd = .active 11 status r) :
    handlerStep s = s.returnFromInterrupt := by
  simp only [handlerStep, active, if_true]

end Sys2Proof.Machine

namespace Sys2Proof.Proofs

open Sys2Proof.Machine

/-- Settles O51: `irqLine_iff`, and the entry step by `takeable_iff`. -/
theorem interrupt : Obligations.Interrupt := by
  unfold Obligations.Interrupt
  refine ⟨State.irqLine_iff, fun s => ?_⟩
  intro takeable
  have takeable_iff : s.takeable = true ↔ takeable := s.takeable_iff
  exact ⟨fun taken => if_pos (takeable_iff.2 taken), fun held => if_neg (mt takeable_iff.1 held)⟩

/-- Settles O53: H1, H2 past the teardown, H10 and H11; the two clears together clear the status, and the hooks of H1 and H10 are
those of all five kinds. -/
theorem noTeardownRuns : Obligations.NoTeardownRuns := by
  unfold Obligations.NoTeardownRuns
  intro s status r hf hr active guard gate
  let s1 := s.afterH1 status r
  let s2 := s1.afterH2Unguarded status r
  let s3 := s2.afterH10 status r
  calc runSteps 4 (s.scheduled [.hd, .hd, .hd, .hd])
    _ = runSteps 3 (s1.scheduled [.hd, .hd, .hd]) := runSteps_hd hf hr (handlerStep_H1 active) gate
    _ = runSteps 2 (s2.scheduled [.hd, .hd]) := runSteps_hd hf hr (handlerStep_H2_unguarded rfl guard) gate
    _ = runSteps 1 (s3.scheduled [.hd]) := runSteps_hd hf hr (handlerStep_H10 rfl) gate
    _ = runSteps 0 (s3.returnFromInterrupt.scheduled []) := runSteps_hd hf hr (handlerStep_H11 rfl) gate
    _ = _ := by
      simp only [s1, s2, s3, State.afterH1, State.afterH2Unguarded, State.afterH10, State.returnFromInterrupt,
        List.append_assoc, hookEvents_append, clear_status, runSteps_zero]
      rfl

end Sys2Proof.Proofs
end

section
/-! PROOF. The launch state, and the agents that have no step there (spec/70_reset_and_hazards.md R280, R282). -/

namespace Sys2Proof.Machine

/-! ### What keeps an agent from a step -/

/-- R129: a fetch needs a running stream. -/
theorem State.fetchEnabled_of_not_running {s : State} (still : s.dma.state ≠ .running) : s.fetchEnabled = false :=
  Bool.eq_false_iff.2 fun on => still (s.fetchEnabled_iff.1 on).1

/-- R130: a handoff needs a running stream. -/
theorem State.handoffEnabled_of_not_running {s : State} (still : s.dma.state ≠ .running) : s.handoffEnabled = false :=
  Bool.eq_false_iff.2 fun on => still (s.handoffEnabled_iff.1 on).1

/-- R133: an error needs a running stream. -/
theorem errorStep_of_not_running {s : State} (still : s.dma.state ≠ .running) : errorStep s = s := if_neg still

/-- R170: the shifter needs SPE. -/
theorem State.shEnabled_of_spe_clear {s : State} (clear : s.spi.spe = false) : s.shEnabled = false := by
  simp [State.shEnabled, clear]

/-- R36: GATE needs SPE. -/
theorem State.gate_of_spe_clear {s : State} (clear : s.spi.spe = false) : s.gate = false := by
  simp [State.gate, clear]

/-- R240: IRQ needs a flag of the stream. -/
theorem State.irqLine_of_flagless {s : State} (flagless : s.dma.sr = 0) : s.irqLine = false := by
  simp [State.irqLine, flagless]

/-- R241: the entry needs the interrupt line. -/
theorem State.takeable_of_irqLine_low {s : State} (low : s.irqLine = false) : s.takeable = false := by
  simp [State.takeable, low]

/-- R243: a handler step needs an active handler. -/
theorem State.hdEnabled_of_inactive {s : State} (inactive : s.hd = .inactive) : s.hdEnabled = false := by
  simp only [State.hdEnabled, inactive]

/-! ### The launch state's agents -/

section
variable (par : Params) (image : Memory) (prog : List Word)

theorem State.launch_not_running : (State.launch par image prog).dma.state ≠ .running := DmaState.noConfusion

theorem State.launch_spe : (State.launch par image prog).spi.spe = false := rfl

theorem State.launch_irqLine : (State.launch par image prog).irqLine = false := State.irqLine_of_flagless rfl

end

end Sys2Proof.Machine

namespace Sys2Proof.Proofs

open Sys2Proof.Machine

/-- Settles O13: the fields are `State.launch`'s own. An idle stream keeps DE and ENV from a step, a clear SPE keeps SH and GATE
low, an empty SR keeps IRQ low and so IE from a step, and HD is inactive. -/
theorem reset : Obligations.Reset := by
  unfold Obligations.Reset
  refine ⟨fun par image prog => ?fields, fun par image prog => ?agents⟩
  case fields => exact ⟨rfl, rfl, rfl, rfl, rfl, rfl, rfl, rfl, rfl, rfl, rfl, rfl, rfl, rfl⟩
  case agents =>
    have still := State.launch_not_running par image prog
    have clear := State.launch_spe par image prog
    have low := State.launch_irqLine par image prog
    exact ⟨State.fetchEnabled_of_not_running still, State.handoffEnabled_of_not_running still,
      State.shEnabled_of_spe_clear clear, State.takeable_of_irqLine_low low, errorStep_of_not_running still,
      State.hdEnabled_of_inactive rfl, State.gate_of_spe_clear clear, low⟩

end Sys2Proof.Proofs
end

section
/-! PROOF. The decoder and the encoder undo each other, the illegal opcodes, and the order of the decode steps
(spec/30_encoding.md R90 to R98, R102). -/

namespace Sys2Proof

/-! ### The control word of DMA.CONFIG (R96) -/

theorem Ctrl.getLsbD_word (c : Ctrl) (i : Nat) :
    c.word.getLsbD i =
      if i < 3 then c.chsel.getLsbD i else if i < 4 then false else if i < 6 then c.esize.getLsbD (i - 4)
      else if i < 8 then c.burst.getLsbD (i - 6) else if i < 9 then c.fen else if i < 11 then c.fth.getLsbD (i - 9)
      else if i < 16 then false else if i < 21 then c.ie.getLsbD (i - 16) else false := by
  show (0#11 ++ c.ie ++ 0#5 ++ c.fth ++ BitVec.ofBool c.fen ++ c.burst ++ c.esize ++ 0#1 ++ c.chsel :
    BitVec (11 + 5 + 5 + 2 + 1 + 2 + 2 + 1 + 3)).getLsbD i = _
  simp only [BitVec.getLsbD_append, BitVec.getLsbD_zero, BitVec.getLsbD_ofBool]
  grind

@[simp] theorem Ctrl.ctrlOf_word (c : Ctrl) : ctrlOf c.word = c := by
  have field (lo n : Nat) (v : BitVec n) (h : ∀ i, i < n → c.word.getLsbD (lo + i) = v.getLsbD i) :
      c.word.extractLsb' lo n = v :=
    BitVec.eq_of_getLsbD_eq fun i hi => by simp [hi, h]
  have bit (b : Bool) : (BitVec.ofBool b == 1#1) = b := by cases b <;> rfl
  simp only [ctrlOf]
  rw [field 0 3 c.chsel, field 4 2 c.esize, field 6 2 c.burst, field 8 1 (.ofBool c.fen), field 9 2 c.fth,
    field 16 5 c.ie, bit]
  all_goals
    intro i hi
    rw [getLsbD_word]
    grind

/-- The places of the reserved bits (R96). -/
theorem getLsbD_ctrlReservedMask :
    ∀ i, i < 32 → (ctrlReservedMask.getLsbD i = true ↔ i = 3 ∨ 11 ≤ i ∧ i < 16 ∨ 21 ≤ i) := by
  decide

/-- The encoder leaves the reserved bits clear. -/
theorem Ctrl.word_and_reserved (c : Ctrl) : c.word &&& ctrlReservedMask = 0 := by
  refine BitVec.eq_of_getLsbD_eq fun i hi => ?_
  have reserved := getLsbD_ctrlReservedMask i hi
  rw [BitVec.getLsbD_and, getLsbD_word]
  grind

/-- A control word with its reserved bits clear is that of its fields. -/
theorem Ctrl.word_ctrlOf {w : Word} (h : w &&& ctrlReservedMask = 0) : (ctrlOf w).word = w := by
  refine BitVec.eq_of_getLsbD_eq fun i hi => ?_
  have reserved := getLsbD_ctrlReservedMask i hi
  have clear : (w.getLsbD i && ctrlReservedMask.getLsbD i) = false := by
    rw [← BitVec.getLsbD_and, h]; simp
  rw [Ctrl.getLsbD_word, ctrlOf_fen]
  simp only [ctrlOf, BitVec.getLsbD_extractLsb']
  grind

/-! ### From a command to its packet and back: `decode` after `encode` -/

/-- The row of a command reads the command back from its packet. -/
def BuildsBack (i : Instr) : Prop :=
  ∃ r, findRow (opcOf ((encode i).headD 0)) = some r ∧ r.build ((encode i).headD 0) (encode i).tail = some i

theorem buildsBack {i : Instr} (wf : i.wf = true) : BuildsBack i := by
  cases i with
  | dmaConfig stream ctrl src dst count =>
    have legal : ctrl.word &&& ctrlReservedMask = 0 ∧ (ctrlOf ctrl.word).wf = true ∧ hiHalf (count.setWidth 32) = 0 :=
      ⟨ctrl.word_and_reserved, by simpa [Instr.wf] using wf, (countWord count).1⟩
    refine ⟨_, congrArg findRow (opcOf_streamHeader _ _ _), ?_⟩
    show dmaConfigOf (streamHeader 0x10 stream 0) ctrl.word src dst (count.setWidth 32) = _
    rw [dmaConfigOf, if_pos legal, streamOf_streamHeader, Ctrl.ctrlOf_word, (countWord count).2]
  | dmaClear stream mask =>
    have field : (streamHeader 0x14#8 stream (mask.setWidth 16)).extractLsb' 0 5 = mask :=
      (extractLsb'_headerWord_lo _ _ _ _ (by decide)).trans (by simp)
    exact ⟨_, congrArg findRow (opcOf_streamHeader _ _ _), by simp [headerRow, encode, field]⟩
  | ctlWaitReady | dmaStart | dmaDisable | dmaIsReady | dmaStatus =>
    exact ⟨_, congrArg findRow (opcOf_streamHeader _ _ _), by simp [headerRow, encode]⟩
  | spiXchg byte =>
    refine ⟨_, congrArg findRow (opcOf_headerWord _ _ _), ?_⟩
    simp [headerRow, encode, extractLsb'_headerWord_lo]
  | _ => exact ⟨_, congrArg findRow (opcOf_headerWord _ _ _), by simp [headerRow, encode, Window.words, windowOf]⟩

/-- Every command's packet fits its row. -/
theorem Laws.Encoding.statement : ∀ i : Instr, Statement i
  | .ctlNop => ctlNop
  | .ctlHalt => ctlHalt
  | .ctlWaitReady s => ctlWaitReady s
  | .ctlWaitIdle => ctlWaitIdle
  | .cpuIrqOff => cpuIrqOff
  | .cpuIrqOn => cpuIrqOn
  | .irqEnable id => irqEnable id
  | .lineSet l => lineSet l
  | .lineClear l => lineClear l
  | .memWr16 v a => memWr16 v a
  | .dmaConfig s c src dst n => dmaConfig s c src dst n
  | .dmaStart s => dmaStart s
  | .dmaDisable s => dmaDisable s
  | .dmaIsReady s => dmaIsReady s
  | .dmaClear s m => dmaClear s m
  | .dmaStatus s => dmaStatus s
  | .spiConfig p => spiConfig p
  | .spiEnable => spiEnable
  | .spiDisable => spiDisable
  | .spiXchg b => spiXchg b
  | .spiDmaReq => spiDmaReq
  | .seqWindow w => seqWindow w
  | .seqFill buf => seqFill buf
  | .seqFillWin w buf => seqFillWin w buf
  | .seqFillCtr w h buf => seqFillCtr w h buf
  | .seqHandshake => seqHandshake
  | .seqState => seqState

theorem decode_encode {i : Instr} (rest : List Word) (wf : i.wf = true) : decode (encode i ++ rest) = .command i := by
  obtain ⟨r, row, build⟩ := buildsBack wf
  obtain ⟨r', row', -, len, legal⟩ := Laws.Encoding.statement i
  obtain rfl : r' = r := Option.some.inj (row'.symm.trans row)
  cases packet : encode i with
  | nil =>
    rw [packet, List.length_nil] at len
    omega
  | cons h ws =>
    simp only [packet, List.headD_cons, List.tail_cons, List.length_cons] at row build len legal
    rw [List.cons_append, decode_cons_of_legal_header rest row (by omega) legal, build]
    rfl

/-! ### From words to a command and back: `encode` after `decode` -/

/-- A value that only has bits below `n` set. -/
theorem setWidth_setWidth_of_and_eq_zero {w : Nat} {v : BitVec w} (n : Nat)
    (h : v &&& (BitVec.allOnes w <<< n) = 0) : (v.setWidth n).setWidth w = v := by
  refine BitVec.eq_of_getLsbD_eq fun i hi => ?_
  have bit : (v &&& (BitVec.allOnes w <<< n)).getLsbD i = false := by rw [h]; simp
  simp only [BitVec.getLsbD_and, BitVec.getLsbD_shiftLeft, BitVec.getLsbD_allOnes] at bit
  simp only [BitVec.getLsbD_setWidth]
  grind

/-- A header is its three fields (R91). -/
theorem headerWord_eta (h : Word) : headerWord (opcOf h) (argAOf h) (argBOf h) = h := by
  refine BitVec.eq_of_getLsbD_eq fun i hi => ?_
  rw [getLsbD_headerWord]
  simp only [opcOf, argAOf, argBOf, BitVec.getLsbD_extractLsb']
  grind

/-- A header with its reserved bits clear: the opcode is the row's, and A and B are clear under their masks. -/
theorem header_of_legal {h : Word} {o ma : Byte} {mb : Half} (legal : h &&& headerWord 0xFF ma mb = headerWord o 0 0) :
    h = headerWord o (argAOf h) (argBOf h) ∧ argAOf h &&& ma = 0 ∧ argBOf h &&& mb = 0 := by
  have fields : headerWord (opcOf h &&& 0xFF) (argAOf h &&& ma) (argBOf h &&& mb) = headerWord o 0 0 := by
    rw [← headerWord_and, headerWord_eta, legal]
  have opc := congrArg opcOf fields
  have argA := congrArg argAOf fields
  have argB := congrArg argBOf fields
  simp only [opcOf_headerWord, argAOf_headerWord, argBOf_headerWord] at opc argA argB
  rw [show opcOf h &&& 0xFF = opcOf h from BitVec.and_allOnes] at opc
  exact ⟨by rw [← opc, headerWord_eta], argA, argB⟩

/-- A command that the row builds from a legal header and its operand words is well formed, and they are its packet. -/
def OpcodeRow.Inverts (r : OpcodeRow) : Prop :=
  ∀ (h : Word) (ws : List Word) (i : Instr), ws.length = r.len → h &&& r.mask = r.pattern → r.build h ws = some i →
    i.wf = true ∧ i.operandWords = r.len ∧ encode i = h :: ws

/-- A row of a command without operands: its pattern is the whole packet. -/
theorem headerRow_inverts_plain {o : Byte} {pattern : Word} {i : Instr} (wf : i.wf = true) (len : i.operandWords = 0)
    (packet : encode i = [pattern]) : (headerRow o pattern 0xFFFFFFFF fun _ => some i).Inverts := by
  intro h ws j hws legal build
  obtain rfl : i = j := Option.some.inj build
  obtain rfl : ws = [] := List.length_eq_zero_iff.1 hws
  have whole : h = pattern := BitVec.and_allOnes.symm.trans legal
  exact ⟨wf, len, by rw [packet, whole]⟩

/-- A row of a command whose one operand is in A, the B field clear. -/
theorem headerRow_inverts_argA {o ma : Byte} {f : Word → Option Instr}
    (back : ∀ a i, a &&& ma = 0 → f (headerWord o a 0) = some i →
      i.wf = true ∧ i.operandWords = 0 ∧ encode i = [headerWord o a 0]) :
    (headerRow o (headerWord o 0 0) (headerWord 0xFF ma 0xFFFF) f).Inverts := by
  intro h ws i hws legal build
  obtain rfl : ws = [] := List.length_eq_zero_iff.1 hws
  obtain ⟨eta, clearA, clearB⟩ := header_of_legal legal
  rw [show argBOf h &&& 0xFFFF = argBOf h from BitVec.and_allOnes] at clearB
  rw [clearB] at eta
  rw [eta] at build ⊢
  exact back _ i clearA build

/-- A stream id in A with its reserved bits clear is all of A (R93). -/
theorem headerWord_eq_streamHeader (o : Byte) {a : Byte} (b : Half) (clear : a &&& 0xF8 = 0) :
    headerWord o a b = streamHeader o (streamOf (headerWord o a b)) b := by
  rw [streamHeader, streamOf, extractLsb'_headerWord_mid _ _ _ _ (by decide)]
  exact congrArg (headerWord o · b) (by revert a; decide)

/-- A row of a command with a stream id. -/
theorem headerRow_inverts_stream {o : Byte} {f : BitVec 3 → Instr} (wf : ∀ s, (f s).wf = true)
    (len : ∀ s, (f s).operandWords = 0) (packet : ∀ s, encode (f s) = [streamHeader o s 0]) :
    (headerRow o (headerWord o 0 0) (headerWord 0xFF 0xF8 0xFFFF) fun h => some (f (streamOf h))).Inverts := by
  refine headerRow_inverts_argA fun a i clear build => ?_
  obtain rfl := Option.some.inj build
  exact ⟨wf _, len _, by rw [packet, ← headerWord_eq_streamHeader o 0 clear]⟩

/-- A line id read from A is the code of its line (R94). -/
theorem code_of_lineOf {o a : Byte} {b : Half} {l : Line} (clear : a &&& 0xFC = 0)
    (line : lineOf (headerWord o a b) = some l) : l.code = a := by
  rw [lineOf, extractLsb'_headerWord_mid _ _ _ _ (by decide)] at line
  cases l <;> revert a <;> decide

/-- A row of a command with a line id. -/
theorem headerRow_inverts_line {o : Byte} {f : Line → Instr} (wf : ∀ l, (f l).wf = true)
    (len : ∀ l, (f l).operandWords = 0) (packet : ∀ l, encode (f l) = [headerWord o l.code 0]) :
    (headerRow o (headerWord o 0 0) (headerWord 0xFF 0xFC 0xFFFF) fun h => (lineOf h).map f).Inverts := by
  refine headerRow_inverts_argA fun a i clear build => ?_
  obtain ⟨l, line, rfl⟩ := Option.map_eq_some_iff.1 build
  exact ⟨wf l, len l, by rw [packet, code_of_lineOf clear line]⟩

theorem code_modeOf {o a : Byte} {b : Half} (clear : a &&& 0xFE = 0) : (modeOf (headerWord o a b)).code = a := by
  rw [modeOf, extractLsb'_headerWord_mid _ _ _ _ (by decide)]
  revert a; decide

/-- The profile argument's row (R94). -/
theorem inverts_spiConfig :
    (headerRow 0x20 (headerWord 0x20 0 0) (headerWord 0xFF 0xFE 0xFFFF) fun h => some (.spiConfig (modeOf h))).Inverts := by
  refine headerRow_inverts_argA fun a i clear build => ?_
  obtain rfl := Option.some.inj build
  exact ⟨rfl, rfl, by rw [encode, code_modeOf clear]⟩

theorem inverts_irqEnable :
    (headerRow 0x0A (headerWord 0x0A 0 0) (headerWord 0xFF 0 0xFFFF) fun h => some (.irqEnable (argAOf h))).Inverts := by
  refine headerRow_inverts_argA fun a i _ build => ?_
  obtain rfl := Option.some.inj build
  exact ⟨rfl, rfl, by rw [encode, argAOf_headerWord]⟩

/-- A header whose A is clear (R91). -/
theorem header_of_legal_argA_clear {h : Word} {o : Byte} {mb : Half}
    (legal : h &&& headerWord 0xFF 0xFF mb = headerWord o 0 0) :
    h = headerWord o 0 (argBOf h) ∧ argBOf h &&& mb = 0 := by
  obtain ⟨eta, clearA, clearB⟩ := header_of_legal legal
  rw [show argAOf h &&& 0xFF = argAOf h from BitVec.and_allOnes] at clearA
  rw [clearA] at eta
  exact ⟨eta, clearB⟩

theorem inverts_spiXchg :
    (headerRow 0x23 (headerWord 0x23 0 0) (headerWord 0xFF 0xFF 0xFF00)
      fun h => some (.spiXchg (h.extractLsb' 0 8))).Inverts := by
  intro h ws i hws legal build
  obtain rfl : ws = [] := List.length_eq_zero_iff.1 hws
  obtain rfl := Option.some.inj build
  obtain ⟨eta, clearB⟩ := header_of_legal_argA_clear legal
  have byte : (h.extractLsb' 0 8).setWidth 16 = argBOf h := by
    rw [eta, extractLsb'_headerWord_lo _ _ _ _ (by decide), argBOf_headerWord]
    exact setWidth_setWidth_of_and_eq_zero 8 clearB
  exact ⟨rfl, rfl, by rw [encode, byte, ← eta]⟩

theorem inverts_dmaClear :
    (headerRow 0x14 (headerWord 0x14 0 0) (headerWord 0xFF 0xF8 0xFFE0)
      fun h => some (.dmaClear (streamOf h) (h.extractLsb' 0 5))).Inverts := by
  intro h ws i hws legal build
  obtain rfl : ws = [] := List.length_eq_zero_iff.1 hws
  obtain rfl := Option.some.inj build
  obtain ⟨eta, clearA, clearB⟩ := header_of_legal legal
  have flags : (h.extractLsb' 0 5).setWidth 16 = argBOf h := by
    rw [eta, extractLsb'_headerWord_lo _ _ _ _ (by decide), argBOf_headerWord]
    exact setWidth_setWidth_of_and_eq_zero 5 clearB
  have header := headerWord_eq_streamHeader 0x14 (argBOf h) clearA
  rw [← eta] at header
  exact ⟨rfl, rfl, by rw [encode, flags, ← header]⟩

/-! ### The rows with operand words -/

theorem hiHalf_append_loHalf (w : Word) : hiHalf w ++ loHalf w = w := by
  refine BitVec.eq_of_getLsbD_eq fun i hi => ?_
  refine (BitVec.getLsbD_append (x := hiHalf w) (y := loHalf w)).trans ?_
  simp only [hiHalf, loHalf, BitVec.getLsbD_extractLsb']
  grind

theorem Window.words_windowOf (w1 w2 : Word) : (windowOf w1 w2).words = [w1, w2] := by
  simp only [Window.words, windowOf, hiHalf_append_loHalf]

/-- The row of a command whose header is constant and whose operands are its operand words. -/
theorem inverts_of_constant_header {r : OpcodeRow} (mask : r.mask = 0xFFFFFFFF)
    (back : ∀ ws i, ws.length = r.len → r.build r.pattern ws = some i →
      i.wf = true ∧ i.operandWords = r.len ∧ encode i = r.pattern :: ws) : r.Inverts := by
  intro h ws i hws legal build
  have whole : h = r.pattern := by
    rw [mask] at legal
    exact BitVec.and_allOnes.symm.trans legal
  subst whole
  exact back ws i hws build

theorem inverts_seqRows : ∀ r ∈ seqRows, r.Inverts := by
  simp only [seqRows, List.forall_mem_cons]
  refine ⟨?window, ?fill, ?fillWin, ?fillCtr, ?handshake, ?state, nofun⟩
  case window =>
    refine inverts_of_constant_header rfl fun ws i hws build => ?_
    obtain ⟨w1, w2, rfl⟩ := List.length_eq_two.1 hws
    obtain rfl := Option.some.inj build
    exact ⟨rfl, rfl, by rw [encode, Window.words_windowOf]; rfl⟩
  case fill =>
    refine inverts_of_constant_header rfl fun ws i hws build => ?_
    obtain ⟨w1, rfl⟩ := List.length_eq_one_iff.1 hws
    obtain rfl := Option.some.inj build
    exact ⟨rfl, rfl, rfl⟩
  case fillWin =>
    refine inverts_of_constant_header rfl fun ws i hws build => ?_
    obtain ⟨w1, w2, w3, rfl⟩ := List.length_eq_three.1 hws
    obtain rfl := Option.some.inj build
    exact ⟨rfl, rfl, by rw [encode, Window.words_windowOf]; rfl⟩
  case fillCtr =>
    refine inverts_of_constant_header rfl fun ws i hws build => ?_
    obtain ⟨w1, w2, rfl⟩ := List.length_eq_two.1 hws
    obtain rfl := Option.some.inj build
    exact ⟨rfl, rfl, by rw [encode, hiHalf_append_loHalf]; rfl⟩
  case handshake => exact headerRow_inverts_plain rfl rfl rfl
  case state => exact headerRow_inverts_plain rfl rfl rfl

theorem inverts_spiRows : ∀ r ∈ spiRows, r.Inverts := by
  simp only [spiRows, List.forall_mem_cons]
  exact ⟨inverts_spiConfig, headerRow_inverts_plain rfl rfl rfl, headerRow_inverts_plain rfl rfl rfl, inverts_spiXchg,
    headerRow_inverts_plain rfl rfl rfl, nofun⟩

/-- The count word whose high half is clear (R96). -/
theorem setWidth_loHalf {w : Word} (high : hiHalf w = 0) : (loHalf w).setWidth 32 = w := by
  have parts := hiHalf_append_loHalf w
  rw [high] at parts
  exact BitVec.setWidth_eq_append (by decide) |>.trans parts

theorem inverts_dmaRows : ∀ r ∈ dmaRows, r.Inverts := by
  simp only [dmaRows, List.forall_mem_cons]
  refine ⟨?config, headerRow_inverts_stream (fun _ => rfl) (fun _ => rfl) (fun _ => rfl),
    headerRow_inverts_stream (fun _ => rfl) (fun _ => rfl) (fun _ => rfl),
    headerRow_inverts_stream (fun _ => rfl) (fun _ => rfl) (fun _ => rfl), inverts_dmaClear,
    headerRow_inverts_stream (fun _ => rfl) (fun _ => rfl) (fun _ => rfl), nofun⟩
  intro h ws i hws legal build
  match ws, hws with
  | [w1, w2, w3, w4], _ =>
  simp only [dmaConfigOf] at build
  split at build
  case isFalse => cases build
  case isTrue checked =>
    obtain ⟨reserved, wf, high⟩ := checked
    obtain rfl := Option.some.inj build
    obtain ⟨eta, clearA, clearB⟩ := header_of_legal (o := 0x10) (ma := 0xF8) (mb := 0xFFFF) legal
    rw [show argBOf h &&& 0xFFFF = argBOf h from BitVec.and_allOnes] at clearB
    rw [clearB] at eta
    have header := headerWord_eq_streamHeader 0x10 0 clearA
    rw [← eta] at header
    exact ⟨wf, rfl, by rw [encode, Ctrl.word_ctrlOf reserved, setWidth_loHalf high, ← header]⟩

theorem inverts_ctlRows : ∀ r ∈ ctlRows, r.Inverts := by
  simp only [ctlRows, List.forall_mem_cons]
  refine ⟨headerRow_inverts_plain rfl rfl rfl, headerRow_inverts_plain rfl rfl rfl,
    headerRow_inverts_stream (fun _ => rfl) (fun _ => rfl) (fun _ => rfl), headerRow_inverts_plain rfl rfl rfl,
    headerRow_inverts_plain rfl rfl rfl, headerRow_inverts_plain rfl rfl rfl, inverts_irqEnable,
    headerRow_inverts_line (fun _ => rfl) (fun _ => rfl) (fun _ => rfl),
    headerRow_inverts_line (fun _ => rfl) (fun _ => rfl) (fun _ => rfl), ?memWr16, nofun⟩
  intro h ws i hws legal build
  obtain ⟨w1, rfl⟩ := List.length_eq_one_iff.1 hws
  obtain rfl := Option.some.inj build
  obtain ⟨eta, -⟩ := header_of_legal_argA_clear (o := 0x0E) (mb := 0) legal
  exact ⟨rfl, rfl, by rw [encode, ← eta]⟩

/-- Every row of the opcode map (R95). -/
theorem inverts_opcodeRows {r : OpcodeRow} (h : r ∈ opcodeRows) : r.Inverts := by
  simp only [opcodeRows, List.mem_append] at h
  rcases h with ((h | h) | h) | h
  · exact inverts_ctlRows r h
  · exact inverts_dmaRows r h
  · exact inverts_spiRows r h
  · exact inverts_seqRows r h

/-- What the words of a decoded command are (R92): the row of the header's opcode, the operand words there, the header
legal, and the command built from them. -/
theorem decode_eq_command {ws : List Word} {i : Instr} (dec : decode ws = .command i) :
    ∃ h rest r, ws = h :: rest ∧ findRow (opcOf h) = some r ∧ r.len ≤ rest.length ∧ h &&& r.mask = r.pattern ∧
      r.build h (rest.take r.len) = some i := by
  cases ws with
  | nil => cases dec
  | cons h rest =>
    simp only [decode] at dec
    split at dec
    · cases dec
    · rename_i r row
      simp only [decodeRow] at dec
      split at dec
      · cases dec
      · split at dec
        · cases dec
        · rename_i present legal
          split at dec
          · rename_i j build
            obtain rfl := Decoded.command.inj dec
            exact ⟨h, rest, r, rfl, row, by omega, by simpa using legal, build⟩
          · cases dec

/-! ### Illegal opcodes and the order of decode (R92, R95) -/

theorem decodeRow_ne_illegal (r : OpcodeRow) (h : Word) (ws : List Word) : decodeRow r h ws ≠ .reject .illegal := by
  unfold decodeRow
  split
  · nofun
  · split
    · nofun
    · split <;> nofun

/-- Step (2) of R92 alone answers that the opcode is illegal. -/
theorem decode_illegal_iff (h : Word) (ws : List Word) :
    decode (h :: ws) = .reject .illegal ↔ findRow (opcOf h) = none := by
  simp only [decode]
  cases findRow (opcOf h) with
  | none => simp
  | some r => simpa using decodeRow_ne_illegal r h ws

theorem opcOf_toNat (h : Word) : (opcOf h).toNat = h.toNat / 2 ^ 24 := by
  simp only [opcOf, BitVec.extractLsb'_toNat, Nat.shiftRight_eq_div_pow]
  omega

/-- The opcodes that the map of R95 leaves out. -/
theorem findRow_eq_none_iff : ∀ o : Byte,
    findRow o = none ↔
      (0x04 ≤ o.toNat ∧ o.toNat ≤ 0x07) ∨ o.toNat = 0x0B ∨ o.toNat = 0x0F ∨ (0x16 ≤ o.toNat ∧ o.toNat ≤ 0x1F) ∨
      (0x25 ≤ o.toNat ∧ o.toNat ≤ 0x2F) ∨ (0x36 ≤ o.toNat ∧ o.toNat ≤ 0xFF) := by
  decide

namespace Machine

/-- Step (1) of R92. -/
theorem State.fetch_of_no_header {s : State} (past : s.prog.length ≤ s.fg.pc) : s.fetch = .reject .pcEnd := by
  rw [State.fetch, List.drop_eq_nil_of_le past]
  rfl

/-- A header word at fg.pc, and the words behind it. -/
theorem State.fetch_of_header {s : State} {h : Word} (header : s.prog[s.fg.pc]? = some h) :
    s.fetch = decode (h :: s.prog.drop (s.fg.pc + 1)) := by
  obtain ⟨inside, rfl⟩ := List.getElem?_eq_some_iff.1 header
  rw [State.fetch, List.drop_eq_getElem_cons inside]

/-- A halted or preempted foreground holds (R22, R248). -/
theorem foregroundStep_hold {s : State} (held : s.fg.halted = true ∨ s.hd ≠ .inactive) : foregroundStep s = .next s :=
  if_pos (by simpa using held)

/-- A rejected packet faults in the step of a free foreground. -/
theorem foregroundStep_reject {s : State} {e : DecodeError} (running : s.fg.halted = false) (inactive : s.hd = .inactive)
    (h : s.fetch = .reject e) : foregroundStep s = .fault (decodeFault e) := by
  rw [foregroundStep, running, inactive, h]
  rfl

end Machine

end Sys2Proof

namespace Sys2Proof.Proofs

open Sys2Proof.Machine

/-- Settles O1: `decode_encode`. -/
theorem decodeOfEncode : Obligations.DecodeOfEncode := by
  unfold Obligations.DecodeOfEncode
  exact fun i rest wf => decode_encode rest wf

/-- Settles O2: the decoded command's row `Inverts`. -/
theorem encodeOfDecode : Obligations.EncodeOfDecode := by
  unfold Obligations.EncodeOfDecode
  intro ws i dec
  obtain ⟨h, rest, r, rfl, row, present, legal, build⟩ := decode_eq_command dec
  obtain ⟨wf, len, packet⟩ := inverts_opcodeRows (List.mem_of_find?_eq_some row) h (rest.take r.len) i
    (by simp [present]) legal build
  refine ⟨wf, ?_, ?_⟩
  · rw [len, List.length_cons]
    omega
  · rw [len, packet, Nat.add_comm, List.take_succ_cons]

/-- Settles O3: `decode_illegal_iff` with the opcodes of `findRow_eq_none_iff`. -/
theorem illegalOpcodes : Obligations.IllegalOpcodes := by
  unfold Obligations.IllegalOpcodes
  intro h ws
  rw [decode_illegal_iff, findRow_eq_none_iff, opcOf_toNat]

/-- Settles O4: steps (1) and (2) by the header word, steps (3) to (5) by `decodeRow` of its row. -/
theorem decodeOrder : Obligations.DecodeOrder := by
  unfold Obligations.DecodeOrder
  refine fun s => ⟨State.fetch_of_no_header, fun h header => ⟨fun illegal => ?_, fun r row => ?_⟩, fun ⟨_, _, running, inactive⟩ =>
    ⟨foregroundStep_reject running inactive, foregroundStep_reject running inactive,
      foregroundStep_reject running inactive⟩⟩
  · rw [State.fetch_of_header header, decode_illegal_iff, illegal]
  · have answer : s.fetch = decodeRow r h (s.prog.drop (s.fg.pc + 1)) := by
      rw [State.fetch_of_header header, decode]
      simp only [row]
    have inside : s.fg.pc < s.prog.length := (List.getElem?_eq_some_iff.1 header).1
    have absent : (s.prog.drop (s.fg.pc + 1)).length < r.len ↔ s.prog.length ≤ s.fg.pc + r.len := by
      rw [List.length_drop]
      omega
    rw [answer, decodeRow]
    refine ⟨fun short => ?_, fun long illegal => ?_, fun long legal none => ?_, fun i long legal build => ?_⟩
    · rw [if_pos (absent.2 short)]
    · rw [if_neg (by omega), if_pos illegal]
    · rw [if_neg (by omega), if_neg (not_not_intro legal), none]
    · rw [if_neg (by omega), if_neg (not_not_intro legal), build]

/-- Settles O6: the words are concrete. -/
theorem decodeFewWords : Obligations.DecodeFewWords := by
  unfold Obligations.DecodeFewWords
  decide

end Sys2Proof.Proofs
end

section
/-! PROOF. No step depends on the parameters that no rule reads, nor on the hook but for its events (spec/00_scope.md R4,
spec/60_exceptions.md R246): every operation of the machine commutes with a view that replaces such parameters and leaves out
events. -/

namespace Sys2Proof.Machine

/-! ### The view -/

/-- `g` keeps the parameters that the rules read, and `keep` is true of every event but the hooks; HOOK_PRESENT decides on
exactly the hooks that `keep` leaves. -/
structure Unread (g : Params → Params) (keep : Event → Bool) : Prop where
  streamId : ∀ p, (g p).streamId = p.streamId
  spiTxChannel : ∀ p, (g p).spiTxChannel = p.spiTxChannel
  spiDrAddr : ∀ p, (g p).spiDrAddr = p.spiDrAddr
  dmaIrqId : ∀ p, (g p).dmaIrqId = p.dmaIrqId
  fifoDepth : ∀ p, (g p).fifoDepth = p.fifoDepth
  pipeFth : ∀ p, (g p).pipeFth = p.pipeFth
  burstOk : ∀ p, (g p).burstOk = p.burstOk
  memOrder : ∀ p, (g p).memOrder = p.memOrder
  ram : ∀ p, (g p).ram = p.ram
  keeps : ∀ e : Event, e.isHook = false → keep e = true
  hooks : ∀ p k r,
    (if (g p).hookPresent then [Event.hook k r] else []) = (if p.hookPresent then [Event.hook k r] else []).filter keep

/-- The state with the parameters replaced and the events left out. -/
def State.viewed (g : Params → Params) (keep : Event → Bool) (s : State) : State :=
  { s with par := g s.par, trace := s.trace.filter keep }

/-- The same of an outcome. -/
def viewedOutcome (g : Params → Params) (keep : Event → Bool) : Outcome → Outcome
  | .next t => .next (t.viewed g keep)
  | .fault f => .fault f
  | .refused r => .refused r

section
variable (g : Params → Params) (keep : Event → Bool) (s : State)

@[simp] theorem viewed_fg : (s.viewed g keep).fg = s.fg := rfl
@[simp] theorem viewed_dma : (s.viewed g keep).dma = s.dma := rfl
@[simp] theorem viewed_spi : (s.viewed g keep).spi = s.spi := rfl
@[simp] theorem viewed_hd : (s.viewed g keep).hd = s.hd := rfl
@[simp] theorem viewed_par : (s.viewed g keep).par = g s.par := rfl
@[simp] theorem viewed_bsy : (s.viewed g keep).bsy = s.bsy := rfl
@[simp] theorem viewed_gate : (s.viewed g keep).gate = s.gate := rfl
@[simp] theorem viewed_fetch : (s.viewed g keep).fetch = s.fetch := rfl
@[simp] theorem viewed_takeable : (s.viewed g keep).takeable = s.takeable := rfl
@[simp] theorem viewed_handoffEnabled : (s.viewed g keep).handoffEnabled = s.handoffEnabled := rfl

theorem viewed_drawByte : (s.viewed g keep).drawByte = (s.drawByte.1, s.drawByte.2.viewed g keep) := by
  simp only [State.drawByte, State.viewed]
  split <;> rfl

theorem viewed_takeTurn : (s.viewed g keep).takeTurn = (s.takeTurn.1, s.takeTurn.2.viewed g keep) := rfl

end

/-- A hook call as one update of the trace (R246). -/
theorem callHook_eq (s : State) (k : FlagKind) (r : Half) :
    s.callHook k r = { s with trace := s.trace ++ if s.par.hookPresent then [.hook k r] else [] } := by
  unfold State.callHook
  split
  · rfl
  · rw [List.append_nil]

section
variable {g : Params → Params} {keep : Event → Bool} (u : Unread g keep)
include u

/-! ### The shared operations -/

theorem Unread.admits (p : Params) (a : Word) (n : Nat) : (g p).admits a n = p.admits a n := by
  simp only [Params.admits, Params.ramByte, u.ram]

theorem Unread.prefetchWindow (p : Params) (d : Dma) : prefetchWindow (g p) d = prefetchWindow p d := by
  simp only [Machine.prefetchWindow, u.fifoDepth]

/-- An event that is no hook stays. -/
theorem Unread.filter_append (es : List Event) (e : Event) (h : e.isHook = false) :
    (es ++ [e]).filter keep = es.filter keep ++ [e] := by
  rw [List.filter_append]
  simp [u.keeps e h]

theorem viewed_giveResult (s : State) (v : Word) :
    (s.viewed g keep).giveResult v = (s.giveResult v).viewed g keep := by
  simp only [State.viewed, State.giveResult, u.filter_append _ (.result v) rfl]

theorem viewed_emit (s : State) {e : Event} (h : e.isHook = false) :
    (s.viewed g keep).emit e = (s.emit e).viewed g keep := by
  simp only [State.viewed, State.emit, u.filter_append _ e h]

theorem viewed_callHook (s : State) (k : FlagKind) (r : Half) :
    (s.viewed g keep).callHook k r = (s.callHook k r).viewed g keep := by
  simp only [callHook_eq, State.viewed, List.filter_append, u.hooks]

theorem viewed_memWrite (s : State) (a : Word) (n v : Nat) :
    (s.viewed g keep).memWrite a n v = (s.memWrite a n v).viewed g keep := by
  simp only [State.viewed, State.memWrite, u.memOrder]

theorem viewed_memRead (s : State) (a : Word) (n : Nat) : (s.viewed g keep).memRead a n = s.memRead a n := by
  simp only [State.viewed, State.memRead, u.memOrder]

/-! ### The foreground -/

theorem viewed_startChecks (i : Instr) (s : State) : startChecks i (s.viewed g keep) = startChecks i s := by
  cases i
  all_goals
    simp only [startChecks, wrongStream, exclusion, memWr16Checks, dmaConfigChecks, dmaStartChecks, dmaDisableChecks,
      spiConfigChecks, spiXchgChecks, seqWindowChecks, seqFillChecks, fillWindowChecks, windowLinkChecks, bufferChecks,
      notReadyCheck, idleCheck, State.viewed, u.streamId, u.spiDrAddr, u.burstOk, u.admits]
  all_goals rfl

theorem viewed_startEffect (i : Instr) (s : State) :
    startEffect i (s.viewed g keep) = (startEffect i s).viewed g keep := by
  cases i
  case memWr16 v a => exact viewed_memWrite u s a 2 _
  case dmaIsReady | dmaStatus | seqState => exact viewed_giveResult u s _
  case irqEnable id =>
    simp only [startEffect, State.enableSource, State.viewed, u.dmaIrqId]
    split_ifs <;> rfl
  case lineSet l | lineClear l => cases l <;> rfl
  case dmaConfig =>
    simp only [startEffect]
    split <;> rfl
  all_goals rfl

theorem viewed_act (m : Micro) (s : State) : m.act (s.viewed g keep) = (m.act s).viewed g keep := by
  cases m
  case takeResult =>
    simp only [Micro.act, viewed_spi]
    cases s.spi.rxBuf with
    | some v => exact viewed_giveResult u s.dropRx _
    | none => rfl
  case pipeline buf =>
    simp only [Micro.act, pipelineDescriptor, State.viewed, u.spiTxChannel, u.spiDrAddr, u.pipeFth]
    rfl
  all_goals rfl

theorem viewed_serviceFlag (status : BitVec 5) (r : Half) (s : State) (k : FlagKind) :
    serviceFlag status r (s.viewed g keep) k = (serviceFlag status r s k).viewed g keep := by
  simp only [serviceFlag]
  split
  · exact viewed_callHook u { s with dma := { s.dma with sr := clearFlag s.dma.sr k } } k r
  · rfl

theorem viewed_serviceErrors (status : BitVec 5) (r : Half) (s : State) :
    serviceErrors status r (s.viewed g keep) = (serviceErrors status r s).viewed g keep := by
  simp only [serviceErrors, List.foldl, viewed_serviceFlag u]

theorem viewed_teardownStep (j : Nat) (status : BitVec 5) (r : Half) (s : State) :
    teardownStep j status r (s.viewed g keep) =
      (teardownStep j status r s).map fun x => (x.1, x.2.viewed g keep) := by
  unfold teardownStep
  split
  case h_1 => simp only [viewed_serviceErrors u, Option.map_some]
  case h_2 =>
    simp only [clearCompletion_eq]
    rfl
  case h_4 => cases busy : s.bsy <;> simp [busy]
  case h_6 => cases on : s.spi.spe <;> simp [on]
  case h_9 =>
    cases on : s.spi.spe
    · simp [on]
    · simp only [viewed_spi, on, if_true]
      rfl
  case h_10 =>
    split
    · simp only [viewed_callHook u, Option.map_some]
    · rfl
  all_goals rfl

theorem viewed_execSeqHandshake (s : State) :
    execSeqHandshake (s.viewed g keep) = viewedOutcome g keep (execSeqHandshake s) := by
  have step := viewed_teardownStep u (s.fg.k - 2) s.fg.status s.fg.remaining s
  simp only [execSeqHandshake, viewed_fg, step]
  split_ifs
  case neg =>
    cases teardownStep (s.fg.k - 2) s.fg.status s.fg.remaining s <;> rfl
  all_goals rfl

theorem viewed_exec (i : Instr) (s : State) : exec i (s.viewed g keep) = viewedOutcome g keep (exec i s) := by
  have place : (s.viewed g keep).fg = s.fg := rfl
  by_cases hs : i = .seqHandshake
  · subst hs
    exact viewed_execSeqHandshake u s
  match hk : s.fg.k with
  | 0 =>
    rw [exec_zero hk, exec_zero (place ▸ hk)]
    rfl
  | 1 =>
    by_cases hh : i = .ctlHalt
    · subst hh
      rw [exec_halt hk, exec_halt (place ▸ hk)]
      exact congrArg Host.Outcome.next (viewed_emit u { s with fg := { s.fg with halted := true } } rfl)
    · rw [exec_start hk hh hs, exec_start (place ▸ hk) hh hs, viewed_startChecks u, viewed_startEffect u]
      cases firstStop (startChecks i s) with
      | none => rfl
      | some how => cases how <;> rfl
  | n + 2 =>
    rw [exec_later hk hs, exec_later (place ▸ hk) hs]
    cases i.laterSteps[n]? with
    | none => rfl
    | some m =>
      have ready : m.ready (s.viewed g keep) = m.ready s := by cases m <;> rfl
      simp only [ready, viewed_act u]
      cases m.ready s <;> rfl

theorem viewed_foregroundStep (s : State) :
    foregroundStep (s.viewed g keep) = viewedOutcome g keep (foregroundStep s) := by
  by_cases held : s.fg.halted = true ∨ s.hd ≠ .inactive
  · rw [foregroundStep_hold held, foregroundStep_hold (s := s.viewed g keep) held]
    rfl
  · simp only [not_or, Bool.not_eq_true, not_not] at held
    obtain ⟨running, inactive⟩ := held
    cases packet : s.fetch with
    | reject e =>
      rw [foregroundStep_reject running inactive packet, foregroundStep_reject (s := s.viewed g keep) running inactive packet]
      rfl
    | command i =>
      rw [foregroundStep_free running inactive packet, foregroundStep_free (s := s.viewed g keep) running inactive packet]
      exact viewed_exec u i s

/-! ### The other agents -/

theorem viewed_handlerStep (s : State) : handlerStep (s.viewed g keep) = (handlerStep s).viewed g keep := by
  simp only [handlerStep, viewed_hd]
  cases s.hd with
  | inactive => rfl
  | active j status r =>
    simp only [viewed_teardownStep u]
    split
    · rfl
    · cases teardownStep j status r s <;> rfl

omit u in
theorem viewed_entryStep (s : State) : entryStep (s.viewed g keep) = (entryStep s).viewed g keep := by
  cases taken : s.takeable
  · simp [entryStep, taken]
  · simp only [entryStep, viewed_takeable, taken, if_true]
    rfl

theorem viewed_fetchStep (s : State) : fetchStep (s.viewed g keep) = (fetchStep s).viewed g keep := by
  have enabled : (s.viewed g keep).fetchEnabled = s.fetchEnabled := by
    simp only [State.fetchEnabled, viewed_dma, viewed_par, u.prefetchWindow]
    rfl
  have element : (s.viewed g keep).fetchElement = s.fetchElement.viewed g keep := by
    simp only [State.fetchElement, viewed_dma, viewed_par, u.admits, viewed_memRead u]
    split_ifs <;> rfl
  cases on : s.fetchEnabled <;> simp [fetchStep, enabled, element, on]

omit u in
theorem viewed_handoffStep (s : State) : handoffStep (s.viewed g keep) = viewedOutcome g keep (handoffStep s) := by
  by_cases on : s.handoffEnabled = true
  · have hands : (s.viewed g keep).handElement.halfTransfer.complete =
        s.handElement.halfTransfer.complete.viewed g keep := by
      simp only [State.halfTransfer_eq, State.complete]
      by_cases last : s.handElement.dma.ndt = 0
      · rw [if_pos last]
        exact if_pos last
      · rw [if_neg last]
        exact if_neg last
    rw [handoffStep_of_enabled on, handoffStep_of_enabled (s := s.viewed g keep) on, hands]
    by_cases misfit : s.spi.profile ≠ .streaming ∨ s.dma.esize ≠ .half
    · rw [if_pos misfit, if_pos (by exact misfit)]
      rfl
    · rw [if_neg misfit, if_neg (by exact misfit)]
      rfl
  · rw [handoffStep_of_not_enabled on, handoffStep_of_not_enabled (s := s.viewed g keep) on]
    rfl

omit u in
theorem viewed_receive (s : State) : (s.viewed g keep).receive = s.receive.viewed g keep := by
  by_cases command : s.spi.profile = .command
  · rw [State.receive_of_command command, State.receive_of_command (s := s.viewed g keep) command, viewed_drawByte]
    rfl
  · rw [State.receive_of_not_command command, State.receive_of_not_command (s := s.viewed g keep) command]

theorem viewed_emitFrame (s : State) (x : Shifting) :
    (s.viewed g keep).emitFrame x = (s.emitFrame x).viewed g keep := by
  refine (congrArg State.receive ?_).trans (viewed_receive _)
  simp only [State.viewed, u.filter_append _ (.frame _ _ _ _) rfl]
  rfl

theorem viewed_shifterStep (s : State) : shifterStep (s.viewed g keep) = (shifterStep s).viewed g keep := by
  by_cases on : s.spi.spe = true
  · cases shift : s.spi.shift with
    | some x =>
      rw [shifterStep_of_emit on shift, shifterStep_of_emit (s := s.viewed g keep) on shift]
      exact viewed_emitFrame u s x
    | none =>
      cases tx : s.spi.txBuf with
      | some f =>
        rw [shifterStep_of_load on shift tx, shifterStep_of_load (s := s.viewed g keep) on shift tx]
        rfl
      | none =>
        rw [shifterStep_of_hold (.inr ⟨shift, tx⟩), shifterStep_of_hold (s := s.viewed g keep) (.inr ⟨shift, tx⟩)]
  · have off : s.spi.spe = false := by simpa using on
    rw [shifterStep_of_hold (.inl off), shifterStep_of_hold (s := s.viewed g keep) (.inl off)]

omit u in
theorem viewed_errorStep (s : State) : errorStep (s.viewed g keep) = (errorStep s).viewed g keep := by
  simp only [errorStep, viewed_dma, viewed_drawByte]
  split
  · split_ifs <;> rfl
  · rfl

theorem viewed_turnStep (τ : Turn) (s : State) :
    turnStep τ (s.viewed g keep) = viewedOutcome g keep (turnStep τ s) := by
  cases τ with
  | fg => exact viewed_foregroundStep u s
  | hd => exact congrArg Host.Outcome.next (viewed_handlerStep u s)
  | ie => exact congrArg Host.Outcome.next (viewed_entryStep s)
  | deFetch => exact congrArg Host.Outcome.next (viewed_fetchStep u s)
  | deHandoff => exact viewed_handoffStep s
  | sh => exact congrArg Host.Outcome.next (viewed_shifterStep u s)
  | env => exact congrArg Host.Outcome.next (viewed_errorStep s)

/-! ### The machine step -/

theorem viewed_deliverRequest (s : State) : (s.viewed g keep).deliverRequest = s.deliverRequest.viewed g keep := by
  simp only [State.deliverRequest, viewed_dma, viewed_par, u.spiTxChannel, viewed_drawByte]
  split
  · rfl
  · split_ifs <;> rfl

theorem viewed_endOfStep (s : State) : (s.viewed g keep).endOfStep = s.endOfStep.viewed g keep := by
  simp only [State.endOfStep, viewed_gate, viewed_spi, viewed_deliverRequest u]
  split_ifs <;> rfl

theorem viewed_settle (s : State) (o : Outcome) :
    (s.viewed g keep).settle (viewedOutcome g keep o) = (s.settle o).viewed g keep := by
  cases o with
  | next t => exact viewed_endOfStep u t
  | fault f => simp only [viewedOutcome, State.settle, State.markFault, State.viewed, u.filter_append _ (.fault f) rfl]
  | refused r =>
    simp only [viewedOutcome, State.settle, State.markRefused, State.viewed, u.filter_append _ (.refused r) rfl]

/-- The two machines take the same step. -/
theorem viewed_step {s t : State} (h : step s = .next t) : step (s.viewed g keep) = .next (t.viewed g keep) := by
  obtain ⟨fault, refused, rfl⟩ := step_next h
  rw [step_live (s := s.viewed g keep) fault refused, liveStep, liveStep, viewed_takeTurn, viewed_turnStep u,
    viewed_settle u]

end

/-! ### The two views of the statement -/

/-- SPI_CPOL_CPHA, SPI_PRESC_CMD and SPI_PRESC_STREAM replaced (R4). -/
def Params.withClock (c : BitVec 2) (p q : Nat) (par : Params) : Params :=
  { par with spiCpolCpha := c, spiPrescCmd := p, spiPrescStream := q }

/-- HOOK_PRESENT replaced by no (R246). -/
def Params.withoutHook (par : Params) : Params := { par with hookPresent := false }

theorem unread_withClock (c : BitVec 2) (p q : Nat) : Unread (Params.withClock c p q) fun _ => true where
  streamId _ := rfl
  spiTxChannel _ := rfl
  spiDrAddr _ := rfl
  dmaIrqId _ := rfl
  fifoDepth _ := rfl
  pipeFth _ := rfl
  burstOk _ := rfl
  memOrder _ := rfl
  ram _ := rfl
  keeps _ _ := rfl
  hooks _ _ _ := (List.filter_true _).symm

theorem unread_withoutHook : Unread Params.withoutHook fun e => !e.isHook where
  streamId _ := rfl
  spiTxChannel _ := rfl
  spiDrAddr _ := rfl
  dmaIrqId _ := rfl
  fifoDepth _ := rfl
  pipeFth _ := rfl
  burstOk _ := rfl
  memOrder _ := rfl
  ram _ := rfl
  keeps _ h := by simp [h]
  hooks par _ _ := by cases h : par.hookPresent <;> simp [Params.withoutHook, Event.isHook]

end Sys2Proof.Machine

namespace Sys2Proof.Proofs

open Sys2Proof.Machine

/-- Settles O12: `viewed_step` for the clock parameters replaced, with every event kept, and for HOOK_PRESENT replaced, with
the hooks left out. -/
theorem unreadParametersAndHooks : Obligations.UnreadParametersAndHooks := by
  unfold Obligations.UnreadParametersAndHooks
  refine ⟨fun s t c p q h => ?_, fun s t h => viewed_step unread_withoutHook h⟩
  have same := viewed_step (unread_withClock c p q) h
  simp only [State.viewed, List.filter_true] at same
  exact same

end Sys2Proof.Proofs
end

section
/-! PROOF. What a step of the foreground can be, with the micro-steps still to come before and after it, and what the shape of the
micro-step lists says of them (spec/00_scope.md R7, spec/42_sequencer.md R194 to R196). -/

namespace Sys2Proof.Machine

/-! ### The foreground's step -/

/-- A micro-step list's command is not SEQ.HANDSHAKE, and a command that is over is at its µ1. -/
theorem State.not_inHandshake_advance {s u : State} {i : Instr} {len : Nat} {last : Bool} (fetch : s.fetch = .command i)
    (hs : i ≠ .seqHandshake) (prog : u.prog = s.prog) (pc : u.fg.pc = s.fg.pc) :
    ¬ (u.advance len last).inHandshake := by
  rintro ⟨h, k⟩
  cases last with
  | true => exact absurd k (by simp)
  | false =>
    have same : (u.advance len false).fetch = s.fetch := by simp [State.fetch, prog, pc]
    rw [same, fetch] at h
    exact hs (Decoded.command.inj h)

theorem State.fetch_congr {s u : State} (prog : u.prog = s.prog) (pc : u.fg.pc = s.fg.pc) : u.fetch = s.fetch := by
  rw [State.fetch, State.fetch, prog, pc]

/-- SEQ.HANDSHAKE has no list, and behind its last micro-step the next command has not begun. -/
theorem State.pending_after_handshake {s u : State} (fetch : s.fetch = .command .seqHandshake)
    (h : execSeqHandshake s = .next u) : u.pending = [] := by
  rcases handshake_next h with rfl | ⟨-, rfl⟩ | ⟨-, rfl⟩ | ⟨-, rfl⟩ | ⟨j', v, -, -, hv, rfl⟩
  · exact State.pending_handshake fetch
  · exact State.pending_handshake ((State.fetch_congr rfl rfl).trans fetch)
  · exact State.pending_handshake ((State.fetch_congr rfl rfl).trans fetch)
  · exact State.pending_start rfl
  · obtain ⟨-, fg, -, -, -, -, -, prog, -⟩ := teardownStep_keeps hv
    exact State.pending_handshake ((State.fetch_congr prog (by rw [fg])).trans fetch)

/-- What a foreground step that answers next is, with the micro-steps still to come. -/
inductive FgNext (s u : State) : Prop where
  | hold (h : u = s)
  | start (i : Instr) (inactive : s.hd = .inactive) (fetch : s.fetch = .command i) (hs : i ≠ .seqHandshake)
      (first : s.fg.k = 1) (pass : ∀ c ∈ startChecks i s, c.1 = false) (len : Nat) (last : Bool)
      (h : u = (startEffect i s).advance len last) (before : s.pending = []) (after : u.pending = i.laterSteps)
      (outside : ¬ s.inHandshake ∧ ¬ u.inHandshake)
  | later (m : Micro) (inactive : s.hd = .inactive) (ready : m.ready s = true) (len : Nat) (last : Bool)
      (h : u = (m.act s).advance len last) (pending : s.pending = m :: u.pending)
      (outside : ¬ s.inHandshake ∧ ¬ u.inHandshake)
  | halt (first : s.fg.k = 1) (h : u = ({ s with fg := { s.fg with halted := true } } : State).emit .halt)
  | handshake (inactive : s.hd = .inactive) (fetch : s.fetch = .command .seqHandshake)
      (h : execSeqHandshake s = .next u) (before : s.pending = []) (after : u.pending = [])

theorem foregroundStep_fgNext {s u : State} (h : foregroundStep s = .next u) : FgNext s u := by
  rcases foregroundStep_next h with ⟨rfl, -⟩ | ⟨-, inactive, i, fetch, h⟩
  · exact .hold rfl
  by_cases hs : i = .seqHandshake
  · subst hs
    exact .handshake inactive fetch h (State.pending_handshake fetch) (State.pending_after_handshake fetch h)
  have outside : ¬ s.inHandshake := fun inside => hs (Decoded.command.inj (fetch.symm.trans inside.1))
  cases exec_next h with
  | hold h => exact .hold h
  | start first pass h =>
    obtain ⟨pc, k, prog, -⟩ := startEffect_keeps i s
    refine .start i inactive fetch hs first pass _ _ h (State.pending_start first) ?_ ⟨outside, ?_⟩
    · rw [h]
      exact State.pending_after_start fetch (k.trans first) prog pc _
    · rw [h]
      exact State.not_inHandshake_advance fetch hs prog pc
  | later n m hk hm ready h =>
    obtain ⟨pc, k, prog, -⟩ := m.act_keeps s
    refine .later m inactive ready _ _ h ?_ ⟨outside, ?_⟩
    · rw [h, State.pending_after_later fetch hk hm k prog pc, State.pending_later fetch hk hm, List.tail_cons]
    · rw [h]
      exact State.not_inHandshake_advance fetch hs prog pc
  | halt hi first h => exact .halt first h
  | handshake hi => exact absurd hi hs

/-! ### What the shape of the lists says -/

/-- A micro-step still to come stands in the list with what follows it shaped. -/
theorem shaped_of_mem {m : Micro} {ms : List Micro} (shape : shaped ms = true) (h : m ∈ ms) :
    ∃ after, shapeAt m after = true ∧ ∀ x ∈ after, x ∈ ms := by
  induction ms with
  | nil => cases h
  | cons x xs ih =>
    simp only [shaped, Bool.and_eq_true] at shape
    rcases List.mem_cons.1 h with rfl | h
    · exact ⟨xs, shape.1, fun _ => List.mem_cons_of_mem _⟩
    · obtain ⟨after, at_, sub⟩ := ih shape.2 h
      exact ⟨after, at_, fun y hy => List.mem_cons_of_mem _ (sub y hy)⟩

theorem State.shapeAt_pending {s : State} {m : Micro} {ms : List Micro} (h : s.pending = m :: ms) :
    shapeAt m ms = true := by
  have shape := s.shaped_pending
  rw [h, shaped, Bool.and_eq_true] at shape
  exact shape.1

@[simp] theorem Micro.awaits_iff (m : Micro) : m.awaits = true ↔ awaitsByte m := by
  cases m <;> simp [Micro.awaits, awaitsByte]

@[simp] theorem headIs_iff (m : Micro) (ms : List Micro) : headIs m ms = true ↔ ms.head? = some m := by
  simp [headIs]

@[simp] theorem headQuiet_iff (ms : List Micro) : headQuiet ms = true ↔ ∀ m, ms.head? = some m → ¬ awaitsByte m := by
  cases ms <;> simp [headQuiet, ← Micro.awaits_iff]

@[simp] theorem noExchange_iff (ms : List Micro) : noExchange ms = true ↔ ∀ m ∈ ms, ¬ awaitsByte m := by
  simp [noExchange, ← Micro.awaits_iff]

@[simp] theorem disableWhole_iff (ms : List Micro) :
    disableWhole ms = true ↔
      (Micro.clearSpe ∈ ms → Micro.waitNotBusy ∈ ms) ∧ (Micro.streamingProfile ∈ ms → Micro.clearSpe ∈ ms) := by
  simp [disableWhole, ← imp_iff_not_or]

@[simp] theorem Micro.isPipeline_iff (m : Micro) : m.isPipeline = true ↔ ∃ buf, m = .pipeline buf := by
  cases m <;> simp [Micro.isPipeline]

@[simp] theorem Micro.isPipeline_eq_false_iff (m : Micro) : m.isPipeline = false ↔ ∀ buf, m ≠ .pipeline buf := by
  cases m <;> simp [Micro.isPipeline]

@[simp] theorem beforeStart_iff (ms : List Micro) :
    beforeStart ms = true ↔
      Micro.startStream ∈ ms ∧ Micro.requestOn ∈ ms ∧ Micro.restoreMask ∈ ms ∧ (∀ m ∈ ms, ¬ awaitsByte m) ∧
      Micro.clearSpe ∉ ms ∧ Micro.streamingProfile ∉ ms ∧ Micro.windowSet ∉ ms ∧ Micro.windowSetMasked ∉ ms := by
  simp [beforeStart, and_assoc]

end Sys2Proof.Machine
end

section
/-! PROOF. Every step keeps the invariant of the stream (spec/10_state.md R25, spec/40_dma.md R128, R131): its counters and flags
apart from its part in a fill, one lemma per operation on the stream. -/

namespace Sys2Proof.Machine

/-! ### The two parts of the invariant -/

/-- The part of `EngineInv` on the stream itself: EN, the counters, the FIFO and TC. -/
structure CountersInv (p : Params) (d : Dma) : Prop where
  enRunning : d.en = true ↔ d.state = .running
  counted : d.ndt.toNat + d.handed.toNat = d.ndtCfg.toNat
  handedLe : d.handed.toNat ≤ d.fetched.toNat
  fetchedLe : d.fetched.toNat ≤ d.ndtCfg.toNat
  fifoLength : d.state ≠ .aborted → d.fifo.length + d.handed.toNat = d.fetched.toNat
  inWindow : d.fetched.toNat - d.handed.toNat ≤ prefetchWindow p d
  completeFlag : hasFlag d.sr .tc = true → d.state = .complete
  completeCount : d.state = .complete → d.ndt = 0

/-- The part of `EngineInv` on a fill: its stream has not started, and is Armed from the descriptor's write on. -/
structure StartInv (ms : List Micro) (q : DmaState) : Prop where
  notStarted : Micro.startStream ∈ ms → q ≠ .running
  armedStart : Micro.startStream ∈ ms → (∀ buf, Micro.pipeline buf ∉ ms) → q = .armed

theorem engineInv_iff (s : State) :
    EngineInv s ↔ CountersInv s.par s.dma ∧ StartInv s.pending s.dma.state :=
  ⟨fun h => ⟨⟨h.1, h.2, h.3, h.4, h.5, h.6, h.7, h.8⟩, ⟨h.9, h.10⟩⟩,
    fun ⟨c, f⟩ => ⟨c.1, c.2, c.3, c.4, c.5, c.6, c.7, c.8, f.1, f.2⟩⟩

/-! ### The operations on the stream -/

section
variable {p : Params} {d : Dma}

/-- TC set in a stream with another state contradicts the invariant. -/
theorem CountersInv.tc_clear (h : CountersInv p d) (q : d.state ≠ .complete) : hasFlag d.sr .tc = false :=
  Bool.eq_false_iff.2 fun tc => q (h.completeFlag tc)

/-- The request latch is not part of it. -/
theorem CountersInv.with_req (h : CountersInv p d) (b : Bool) : CountersInv p { d with req := b } :=
  ⟨h.1, h.2, h.3, h.4, h.5, h.6, h.7, h.8⟩

/-- Flags may be cleared, and all but TC set. -/
theorem CountersInv.with_flags (h : CountersInv p d) {sr : BitVec 5}
    (tc : hasFlag sr .tc = true → hasFlag d.sr .tc = true) : CountersInv p { d with sr := sr } :=
  ⟨h.1, h.2, h.3, h.4, h.5, h.6, fun set => h.completeFlag (tc set), h.8⟩

theorem CountersInv.raise (h : CountersInv p d) {k : FlagKind} (other : k ≠ .tc) :
    CountersInv p { d with sr := setFlag d.sr k } :=
  h.with_flags fun set => hasFlag_setFlag set other.symm

/-- An error stop (R129, R133): the FIFO's length is not claimed in Aborted. -/
theorem CountersInv.abort (h : CountersInv p d) (running : d.state = .running) :
    CountersInv p { d with en := false, state := .aborted, fifo := [] } where
  enRunning := by simp
  counted := h.counted
  handedLe := h.handedLe
  fetchedLe := h.fetchedLe
  fifoLength still := absurd rfl still
  inWindow := h.inWindow
  completeFlag tc := by simp [h.tc_clear (by simp [running])] at tc
  completeCount q := by cases q

/-- A configure of a stream that is off (R120, R201). -/
theorem CountersInv.configured (s : State) (off : s.dma.en = false) (desc : Descriptor) :
    CountersInv p (s.configure desc).dma where
  enRunning := by simp [off]
  counted := by simp
  handedLe := by simp
  fetchedLe := by simp
  fifoLength _ := by simp
  inWindow := by simp
  completeFlag tc := by simp [hasFlag] at tc
  completeCount q := by cases q

/-- A stream starts from Armed (R121, R195). -/
theorem CountersInv.start (h : CountersInv p d) (armed : d.state = .armed) :
    CountersInv p { d with en := true, state := .running } where
  enRunning := by simp
  counted := h.counted
  handedLe := h.handedLe
  fetchedLe := h.fetchedLe
  fifoLength _ := h.fifoLength (by simp [armed])
  inWindow := h.inWindow
  completeFlag tc := by simp [h.tc_clear (by simp [armed])] at tc
  completeCount q := by cases q

/-- The disable's write to a stream that does not run: Armed to Idle (R125, R195). -/
theorem CountersInv.unarm (h : CountersInv p d) :
    CountersInv p { d with state := if d.state = .armed then .idle else d.state } := by
  by_cases armed : d.state = .armed
  · rw [if_pos armed]
    exact
      { enRunning := by
          have off : d.en = false := Bool.eq_false_iff.2 fun on => by
            have running := h.enRunning.1 on
            simp [armed] at running
          simp [off]
        counted := h.counted, handedLe := h.handedLe, fetchedLe := h.fetchedLe
        fifoLength := fun _ => h.fifoLength (by simp [armed])
        inWindow := h.inWindow
        completeFlag := fun tc => by simp [h.tc_clear (by simp [armed])] at tc
        completeCount := fun q => by cases q }
  · rw [if_neg armed]
    exact h

/-- EN is cleared in a stream that does not run. -/
theorem CountersInv.off (h : CountersInv p d) (still : d.state ≠ .running) : CountersInv p { d with en := false } :=
  ⟨by simpa using still, h.2, h.3, h.4, h.5, h.6, h.7, h.8⟩

/-- A fetched element (R129). -/
theorem CountersInv.fetched (h : CountersInv p d) (running : d.state = .running)
    (more : d.fetched.toNat < d.ndtCfg.toNat) (room : d.fetched.toNat - d.handed.toNat < prefetchWindow p d) (v : Word) :
    CountersInv p { d with fifo := d.fifo ++ [v], fetched := d.fetched + 1 } := by
  have length := h.fifoLength (by simp [running])
  have handedLe := h.handedLe
  have next : (d.fetched + 1).toNat = d.fetched.toNat + 1 := by bv_omega
  refine ⟨h.enRunning, h.counted, ?_, ?_, fun _ => ?_, ?_, h.completeFlag, h.completeCount⟩
  · simp only [next]; omega
  · simp only [next]; omega
  · simp only [next, List.length_append, List.length_singleton]; omega
  · show (d.fetched + 1).toNat - d.handed.toNat ≤ prefetchWindow p d
    omega

/-- A handed element, before the half-transfer and completion tests (R130): all but the completion's clauses. -/
theorem CountersInv.handed (h : CountersInv p d) (running : d.state = .running) (filled : d.fifo ≠ []) :
    CountersInv p { d with fifo := d.fifo.tail, req := false, handed := d.handed + 1, ndt := d.ndt - 1 } := by
  have length := h.fifoLength (by simp [running])
  have nonempty := List.length_pos_iff.2 filled
  have counted := h.counted
  have fetchedLe := h.fetchedLe
  have next : (d.handed + 1).toNat = d.handed.toNat + 1 := by bv_omega
  have left : (d.ndt - 1).toNat = d.ndt.toNat - 1 := by bv_omega
  have inWindow := h.inWindow
  refine ⟨h.enRunning, ?_, ?_, h.fetchedLe, fun _ => ?_, ?_, h.completeFlag, fun q => ?_⟩
  · simp only [next, left]; omega
  · simp only [next]; omega
  · simp only [next, List.length_tail]; omega
  · show d.fetched.toNat - (d.handed + 1).toNat ≤ prefetchWindow p d
    omega
  · rw [running] at q
    cases q

/-- The completion (R131). -/
theorem CountersInv.complete (h : CountersInv p d) (last : d.ndt = 0) (running : d.state = .running) :
    CountersInv p { d with sr := setFlag d.sr .tc, en := false, state := .complete } where
  enRunning := by simp
  counted := h.counted
  handedLe := h.handedLe
  fetchedLe := h.fetchedLe
  fifoLength _ := h.fifoLength (by simp [running])
  inWindow := h.inWindow
  completeFlag _ := rfl
  completeCount _ := last

end

/-! ### The agents but the foreground -/

/-- A step that leaves the foreground's place alone, and moves the stream's state only out of Running. -/
theorem EngineInv.of_counters {s t : State} (inv : EngineInv s) (prog : t.prog = s.prog) (fg : t.fg = s.fg)
    (counters : CountersInv t.par t.dma) (moved : t.dma.state = s.dma.state ∨ s.dma.state = .running) :
    EngineInv t := by
  obtain ⟨-, start⟩ := (engineInv_iff s).1 inv
  refine (engineInv_iff t).2 ⟨counters, ?_⟩
  rw [State.pending_congr prog (by rw [fg]) (by rw [fg])]
  rcases moved with same | running
  · rwa [same]
  · exact ⟨fun m => absurd running (start.notStarted m), fun m => absurd running (start.notStarted m)⟩

/-- A step that leaves the stream alone. -/
theorem EngineInv.of_dma_eq {s t : State} (inv : EngineInv s) (prog : t.prog = s.prog) (fg : t.fg = s.fg)
    (par : t.par = s.par) (dma : t.dma = s.dma) : EngineInv t :=
  inv.of_counters prog fg (by rw [par, dma]; exact ((engineInv_iff s).1 inv).1) (.inl (by rw [dma]))

theorem EngineInv.handlerStep {s : State} (inv : EngineInv s) : EngineInv (handlerStep s) := by
  rcases handlerStep_cases s with e | ⟨status, r, -, e⟩ | ⟨j, status, r, j', t, -, -, ht, e⟩ <;> rw [e]
  · exact inv
  · exact inv.of_dma_eq rfl rfl rfl rfl
  · obtain ⟨sr, dma, flags⟩ := teardownStep_dma ht
    obtain ⟨-, fg, -, -, -, -, -, prog, par, -⟩ := teardownStep_keeps ht
    refine inv.of_counters prog fg ?_ (.inl (by simp [dma]))
    show CountersInv t.par t.dma
    rw [dma, par]
    exact ((engineInv_iff s).1 inv).1.with_flags (flags .tc)

theorem EngineInv.entryStep {s : State} (inv : EngineInv s) : EngineInv (entryStep s) := by
  unfold Machine.entryStep
  split
  · exact inv.of_dma_eq rfl rfl rfl rfl
  · exact inv

theorem EngineInv.shifterStep {s : State} (inv : EngineInv s) : EngineInv (shifterStep s) := by
  obtain ⟨-, fg, -, dma, -, -, -, -, -, -, prog, par⟩ := shifterStep_keeps s
  exact inv.of_dma_eq prog fg par dma

theorem EngineInv.fetchStep {s : State} (inv : EngineInv s) : EngineInv (fetchStep s) := by
  have counters := ((engineInv_iff s).1 inv).1
  by_cases on : s.fetchEnabled = true
  · obtain ⟨running, more, room⟩ := s.fetchEnabled_iff.1 on
    rw [fetchStep_of_enabled on]
    cases admitted : s.par.admits (elementAddr s.dma s.dma.fetched.toNat) s.dma.esize.bytes with
    | true =>
      rw [State.fetchElement_of_admitted admitted]
      exact inv.of_counters rfl rfl (counters.fetched running more room _) (.inl rfl)
    | false =>
      rw [State.fetchElement_of_not_admitted admitted]
      exact inv.of_counters rfl rfl ((counters.raise (k := .te) (by decide)).abort running) (.inr running)
  · rw [fetchStep_of_not_enabled on]
    exact inv

/-- The half-transfer test sets no TC (R132). -/
theorem hasFlag_tc_halfFlag {v : BitVec 5} {n c : Half} (h : hasFlag (v ||| halfFlag n c) .tc = true) :
    hasFlag v .tc = true := by
  unfold halfFlag at h
  split at h <;> simpa [hasFlag, FlagKind.bit] using h

theorem EngineInv.handoffStep {s t : State} (inv : EngineInv s) (h : handoffStep s = .next t) : EngineInv t := by
  have counters := ((engineInv_iff s).1 inv).1
  by_cases on : s.handoffEnabled = true
  · obtain ⟨running, -, filled, -⟩ := s.handoffEnabled_iff.1 on
    rw [handoffStep_of_enabled on] at h
    split at h
    · cases h
    · obtain rfl := Host.Outcome.next.inj h
      have handed := (counters.handed running filled).with_flags
        (hasFlag_tc_halfFlag (n := s.handElement.dma.ndt) (c := s.dma.ndtCfg))
      rw [State.halfTransfer_eq]
      by_cases last : s.handElement.dma.ndt = 0
      · rw [State.complete_of_ndt_eq_zero (by exact last)]
        exact inv.of_counters rfl rfl (handed.complete last running) (.inr running)
      · rw [State.complete_of_ndt_ne_zero (by exact last)]
        exact inv.of_counters rfl rfl handed (.inl rfl)
  · rw [handoffStep_of_not_enabled on] at h
    exact Host.Outcome.next.inj h ▸ inv

theorem byteToError_ne_tc (b : Byte) : byteToError b ≠ .tc := by
  unfold byteToError
  split <;> decide

theorem EngineInv.errorStep {s : State} (inv : EngineInv s) : EngineInv (errorStep s) := by
  have counters := ((engineInv_iff s).1 inv).1
  by_cases running : s.dma.state = .running
  · have raised := counters.raise (byteToError_ne_tc s.drawByte.1)
    simp only [Machine.errorStep, if_pos running]
    split
    · exact inv.of_counters (by simp) (by simp) (by simpa using raised.abort running) (.inr running)
    · exact inv.of_counters (by simp) (by simp) (by simpa using raised) (.inr running)
  · rw [errorStep_of_not_running running]
    exact inv

/-! ### The foreground -/

/-- µ1 of a command: DMA.CONFIG needs a stream that is off, DMA.START an Armed one, DMA.DISABLE one that does not run. -/
theorem CountersInv.startEffect {i : Instr} {s : State} (h : CountersInv s.par s.dma)
    (pass : ∀ c ∈ startChecks i s, c.1 = false) : CountersInv s.par (startEffect i s).dma := by
  cases i
  case dmaConfig =>
    simp only [startChecks, Machine.startEffect] at pass ⊢
    split at pass
    · simp only [dmaConfigChecks, List.forall_mem_cons] at pass
      exact CountersInv.configured s pass.2.2.1 _
    · simp at pass
  case dmaStart =>
    simp only [startChecks, dmaStartChecks, List.forall_mem_cons, decide_eq_false_iff_not, not_not] at pass
    exact h.start pass.2.2.2.1
  case dmaDisable =>
    simp only [startChecks, dmaDisableChecks, List.forall_mem_cons, decide_eq_false_iff_not] at pass
    refine h.unarm.off fun running => pass.2.2.1 ?_
    split at running
    · cases running
    · exact running
  case dmaClear => exact h.with_flags hasFlag_clearFlags
  case irqEnable =>
    simp only [Machine.startEffect, State.enableSource]
    split <;> exact h
  case lineSet l | lineClear l => cases l <;> exact h
  all_goals exact h

/-- A command that starts the stream later has the fill's checks, leaves the stream alone at µ1, and writes its descriptor
before the start (R195, R196). -/
theorem fill_of_startStream_mem {i : Instr} (s : State) (h : Micro.startStream ∈ i.laterSteps) :
    notReadyCheck s ∈ startChecks i s ∧ (startEffect i s).dma = s.dma ∧ ∃ buf, Micro.pipeline buf ∈ i.laterSteps := by
  cases i
  case seqFill buf => exact ⟨by simp [startChecks, seqFillChecks], rfl, buf, by simp [Instr.laterSteps, fillSteps]⟩
  case seqFillWin w buf =>
    exact ⟨by simp [startChecks, fillWindowChecks], rfl, buf, by simp [Instr.laterSteps, fillWindowSteps, fillSteps]⟩
  case seqFillCtr w ht buf =>
    exact ⟨by simp [startChecks, fillWindowChecks], rfl, buf, by simp [Instr.laterSteps, fillWindowSteps, fillSteps]⟩
  case seqWindow w => simp [Instr.laterSteps, windowBytes, windowGroup, xchgSeq, coordBytes] at h
  all_goals simp [Instr.laterSteps, disableSeq] at h

theorem StartInv.of_start {i : Instr} {s : State} (h : CountersInv s.par s.dma)
    (pass : ∀ c ∈ startChecks i s, c.1 = false) : StartInv i.laterSteps (startEffect i s).dma.state := by
  constructor
  · intro fill running
    obtain ⟨check, dma, -⟩ := fill_of_startStream_mem s fill
    have off : (s.dma.en || s.dma.ndt != 0) = false := pass _ check
    rw [dma] at running
    simp [h.enRunning.2 running] at off
  · intro fill noPipeline
    obtain ⟨-, -, buf, pipeline⟩ := fill_of_startStream_mem s fill
    exact absurd pipeline (noPipeline buf)

/-- Of the later micro-steps three write the stream: µ8, the descriptor and the start of a fill (R195). -/
theorem Micro.act_dma (m : Micro) (s : State) :
    m = .armSequencer ∨ (∃ buf, m = .pipeline buf) ∨ m = .startStream ∨ (m.act s).dma = s.dma := by
  cases m
  case armSequencer => exact .inl rfl
  case pipeline buf => exact .inr (.inl ⟨buf, rfl⟩)
  case startStream => exact .inr (.inr (.inl rfl))
  case takeResult =>
    refine .inr (.inr (.inr ?_))
    simp only [act]
    split <;> rfl
  all_goals exact .inr (.inr (.inr rfl))

theorem CountersInv.act {m : Micro} {ms : List Micro} {s : State} (h : CountersInv s.par s.dma)
    (fill : StartInv s.pending s.dma.state) (pending : s.pending = m :: ms) : CountersInv s.par (m.act s).dma := by
  have shape := State.shapeAt_pending pending
  rw [pending] at fill
  rcases m.act_dma s with rfl | ⟨buf, rfl⟩ | rfl | same
  · exact h.unarm
  · simp [shapeAt] at shape
    have starts : Micro.startStream ∈ Micro.pipeline buf :: ms := by simp [shape]
    exact CountersInv.configured s (Bool.eq_false_iff.2 fun on => fill.notStarted starts (h.enRunning.1 on)) _
  · simp [shapeAt] at shape
    refine h.start (fill.armedStart List.mem_cons_self fun buf again => ?_)
    rcases List.mem_cons.1 again with again | again
    · cases again
    · exact (shape.2 _ again buf) rfl
  · rw [same]
    exact h

theorem StartInv.act {m : Micro} {ms : List Micro} {s : State} (fill : StartInv s.pending s.dma.state)
    (pending : s.pending = m :: ms) : StartInv ms (m.act s).dma.state := by
  have shape := State.shapeAt_pending pending
  rw [pending] at fill
  by_cases pipeline : ∃ buf, m = .pipeline buf
  · obtain ⟨buf, rfl⟩ := pipeline
    exact ⟨fun _ => nofun, fun _ _ => rfl⟩
  rcases m.act_dma s with rfl | again | rfl | same
  · simp [shapeAt] at shape
    obtain ⟨⟨⟨⟨starts, -⟩, -⟩, -⟩, buf, written⟩ := shape
    have still := fill.notStarted (List.mem_cons_of_mem _ starts)
    refine ⟨fun _ running => ?_, fun _ noPipeline => absurd written (noPipeline buf)⟩
    simp only [Micro.act, State.unarm_dma] at running
    split at running
    · cases running
    · exact still running
  · exact absurd again pipeline
  · simp [shapeAt] at shape
    exact ⟨by simp [shape], by simp [shape]⟩
  · rw [same]
    refine ⟨fun starts => fill.notStarted (List.mem_cons_of_mem _ starts), fun starts noPipeline => ?_⟩
    refine fill.armedStart (List.mem_cons_of_mem _ starts) fun buf again => ?_
    rcases List.mem_cons.1 again with again | again
    · exact pipeline ⟨buf, again.symm⟩
    · exact noPipeline buf again

/-- With nothing still to come of a command, no fill is claimed. -/
theorem StartInv.nil (q : DmaState) : StartInv [] q := ⟨nofun, nofun⟩

theorem EngineInv.of_start {i : Instr} {s u : State} {len : Nat} {last : Bool} (inv : EngineInv s)
    (pass : ∀ c ∈ startChecks i s, c.1 = false) (h : u = (Machine.startEffect i s).advance len last)
    (after : u.pending = i.laterSteps) : EngineInv u := by
  obtain ⟨counters, -⟩ := (engineInv_iff s).1 inv
  obtain ⟨-, -, -, par, -⟩ := startEffect_keeps i s
  refine (engineInv_iff u).2 ⟨?_, ?_⟩
  · rw [h, State.advance_par, State.advance_dma, par]
    exact counters.startEffect pass
  · rw [after, h, State.advance_dma]
    exact .of_start counters pass

theorem EngineInv.of_later {m : Micro} {s u : State} {len : Nat} {last : Bool} (inv : EngineInv s)
    (h : u = (m.act s).advance len last) (pending : s.pending = m :: u.pending) : EngineInv u := by
  obtain ⟨counters, fill⟩ := (engineInv_iff s).1 inv
  obtain ⟨-, -, -, par, -⟩ := m.act_keeps s
  refine (engineInv_iff u).2 ⟨?_, ?_⟩
  · rw [h, State.advance_par, State.advance_dma, par]
    exact counters.act fill pending
  · have dma : u.dma = (m.act s).dma := by rw [h, State.advance_dma]
    rw [dma]
    exact fill.act pending

/-- SEQ.HANDSHAKE writes nothing of the stream but its flags, and sets none. -/
theorem handshake_dma {s u : State} (h : execSeqHandshake s = .next u) :
    u.par = s.par ∧ ∃ sr, u.dma = { s.dma with sr := sr } ∧ ∀ k, hasFlag sr k = true → hasFlag s.dma.sr k = true := by
  rcases handshake_next h with rfl | ⟨-, rfl⟩ | ⟨-, rfl⟩ | ⟨-, rfl⟩ | ⟨j', v, -, -, hv, rfl⟩
  case inr.inr.inr.inr =>
    obtain ⟨-, -, -, -, -, -, -, -, par, -⟩ := teardownStep_keeps hv
    obtain ⟨sr, dma, flags⟩ := teardownStep_dma hv
    exact ⟨par, sr, dma, flags⟩
  all_goals exact ⟨rfl, _, rfl, fun _ => id⟩

theorem EngineInv.of_handshake {s u : State} (inv : EngineInv s) (h : execSeqHandshake s = .next u)
    (after : u.pending = []) : EngineInv u := by
  obtain ⟨counters, -⟩ := (engineInv_iff s).1 inv
  obtain ⟨par, sr, dma, flags⟩ := handshake_dma h
  refine (engineInv_iff u).2 ⟨?_, after ▸ .nil _⟩
  rw [par, dma]
  exact counters.with_flags (flags .tc)

theorem EngineInv.foregroundStep {s u : State} (inv : EngineInv s) (h : foregroundStep s = .next u) : EngineInv u := by
  cases foregroundStep_fgNext h with
  | hold h => exact h ▸ inv
  | start i inactive fetch hs first pass len last h before after outside => exact inv.of_start pass h after
  | later m inactive ready len last h pending outside => exact inv.of_later h pending
  | halt first h =>
    obtain ⟨counters, -⟩ := (engineInv_iff s).1 inv
    refine (engineInv_iff u).2 ⟨?_, ?_⟩
    · rw [h]; exact counters
    · rw [State.pending_start (by rw [h]; exact first)]
      exact .nil _
  | handshake inactive fetch h before after => exact inv.of_handshake h after

/-! ### The step -/

theorem EngineInv.turnStep {τ : Turn} {s u : State} (inv : EngineInv s) (h : turnStep τ s = .next u) : EngineInv u := by
  cases τ
  case fg => exact inv.foregroundStep h
  case deHandoff => exact inv.handoffStep h
  case hd => exact Host.Outcome.next.inj h ▸ inv.handlerStep
  case ie => exact Host.Outcome.next.inj h ▸ inv.entryStep
  case deFetch => exact Host.Outcome.next.inj h ▸ inv.fetchStep
  case sh => exact Host.Outcome.next.inj h ▸ inv.shifterStep
  case env => exact Host.Outcome.next.inj h ▸ inv.errorStep

theorem EngineInv.endOfStep {s : State} (inv : EngineInv s) : EngineInv s.endOfStep := by
  obtain ⟨b, dma⟩ := s.endOfStep_dma
  refine inv.of_counters (by simp) (by simp) ?_ (.inl (by rw [dma]))
  rw [dma, State.endOfStep_par]
  exact ((engineInv_iff s).1 inv).1.with_req b

/-- The step of a machine, by the turn that is taken: its agent's step with the edge rule, or a mark. -/
theorem liveStep_cases (s : State) :
    (∃ u, turnStep s.takeTurn.1 s.takeTurn.2 = .next u ∧ liveStep s = u.endOfStep) ∨
    (∃ f, turnStep s.takeTurn.1 s.takeTurn.2 = .fault f ∧ liveStep s = s.takeTurn.2.markFault f) ∨
    (∃ r, turnStep s.takeTurn.1 s.takeTurn.2 = .refused r ∧ liveStep s = s.takeTurn.2.markRefused r) := by
  unfold liveStep
  cases turnStep s.takeTurn.1 s.takeTurn.2 with
  | next u => exact .inl ⟨u, rfl, rfl⟩
  | fault f => exact .inr (.inl ⟨f, rfl, rfl⟩)
  | refused r => exact .inr (.inr ⟨r, rfl, rfl⟩)

theorem EngineInv.step {s t : State} (inv : EngineInv s) (h : step s = .next t) : EngineInv t := by
  obtain ⟨-, -, rfl⟩ := step_next h
  have taken : EngineInv s.takeTurn.2 := inv.of_dma_eq rfl rfl rfl rfl
  rcases liveStep_cases s with ⟨u, hu, e⟩ | ⟨f, -, e⟩ | ⟨r, -, e⟩ <;> rw [e]
  · exact (taken.turnStep hu).endOfStep
  · exact taken.of_dma_eq rfl rfl rfl rfl
  · exact taken.of_dma_eq rfl rfl rfl rfl

end Sys2Proof.Machine

namespace Sys2Proof.Proofs

open Sys2Proof.Machine

/-- Settles O56: `EngineInv.turnStep` agent by agent, the edge rule and the marks. -/
theorem engineInvariantKept : Obligations.EngineInvariantKept := by
  unfold Obligations.EngineInvariantKept
  exact fun _ _ inv h => inv.step h

end Sys2Proof.Proofs
end

section
/-! PROOF. Every step keeps the invariant of the block (spec/41_spi.md R169, spec/42_sequencer.md R194, R202, spec/60_exceptions.md
R243 to R248). Its clauses on the link and the sequencer read the foreground's micro-steps still to come, its clauses on the
teardown read the handler's and SEQ.HANDSHAKE's step; the two parts are kept apart, as the foreground's part changes with the list. -/

namespace Sys2Proof.Machine

/-! ### The two parts of the invariant -/

/-- The clauses of `LinkInv` and `EnableInv` on the link and the sequencer, for the micro-steps `ms` still to come. -/
structure LinkAt (ms : List Micro) (s : State) : Prop where
  txFits : ∀ f, s.spi.txBuf = some f → frameFits s.spi.profile f
  shiftFits : ∀ x, s.spi.shift = some x → frameFits s.spi.profile x.frame
  exchange : s.spi.profile = .command → exchangeState s ms.head?
  inExchange : ∀ m ∈ ms, awaitsByte m →
    s.spi.profile = .command ∧ s.spi.spe = true ∧ s.seq.state ≠ .streamingArmed ∧ s.seq.state ≠ .streaming
  windowSet : Micro.windowSet ∈ ms → s.seq.state = .idle ∨ s.seq.state = .windowSet
  windowSetMasked : Micro.windowSetMasked ∈ ms → s.seq.state = .idle
  fillWaits : Micro.armSequencer ∈ ms → Micro.windowSetMasked ∉ ms → s.seq.state = .windowSet
  armed : s.seq.state = .streamingArmed ↔ Micro.requestOn ∈ ms ∧ Micro.armSequencer ∉ ms
  masked : Micro.restoreMask ∈ ms → Micro.windowSetMasked ∉ ms → s.irq.masked = true ∧ s.hd = .inactive
  notFed : Micro.clearSpe ∈ ms → s.dma.state ≠ .running
  drained : Micro.clearSpe ∈ ms → Micro.waitNotBusy ∉ ms → s.bsy = false
  stillDrained : Micro.streamingProfile ∈ ms → Micro.clearSpe ∉ ms → s.bsy = false
  notCleared : Micro.clearSpe ∈ ms → s.seq.state ≠ .streamingArmed ∧ s.seq.state ≠ .streaming
  waitedFor : Micro.armSequencer ∈ ms → Micro.waitSpeSet ∉ ms → s.spi.spe = true
  armedEnabled : s.seq.state = .streamingArmed → s.spi.spe = true

/-- The clauses of `LinkInv` and `EnableInv` on a teardown under way. -/
structure TeardownInv (s : State) : Prop where
  handler : ∀ j status r, s.hd = .active j status r → 1 ≤ j ∧ j ≤ 11 ∧ TeardownAt s j status
  handshake : s.inHandshake →
    s.hd = .inactive ∧ s.irq.masked = true ∧ (3 ≤ s.fg.k → TeardownAt s (s.fg.k - 2) s.fg.status)
  streaming : s.seq.state = .streaming →
    s.spi.spe = true ∨ (∃ j status r, s.hd = .active j status r ∧ 6 ≤ j ∧ j ≤ 8) ∨
    (s.inHandshake ∧ 8 ≤ s.fg.k ∧ s.fg.k ≤ 10)

/-- `Inv` less what its memory and stream keep by themselves. -/
structure BlockInv (s : State) : Prop where
  link : LinkAt s.pending s
  teardown : TeardownInv s

theorem inv_iff (s : State) : Inv s ↔ BaseInv s ∧ EngineInv s ∧ BlockInv s := by
  constructor
  · rintro ⟨base, engine, l, e⟩
    exact ⟨base, engine, ⟨l.1, l.2, l.3, l.4, l.5, l.6, l.7, l.8, l.9, l.10, l.11, l.12, e.1, e.2, e.3⟩, l.13, l.14, e.4⟩
  · rintro ⟨base, engine, l, t⟩
    exact ⟨base, engine, ⟨l.1, l.2, l.3, l.4, l.5, l.6, l.7, l.8, l.9, l.10, l.11, l.12, t.1, t.2⟩, ⟨l.13, l.14, l.15, t.3⟩⟩

/-! ### What the clauses read -/

/-- The two states agree on the link but for GPREV, on the sequencer, the mask, the handler, CS and the foreground's place. -/
structure SameLink (s u : State) : Prop where
  txBuf : u.spi.txBuf = s.spi.txBuf
  shift : u.spi.shift = s.spi.shift
  rxBuf : u.spi.rxBuf = s.spi.rxBuf
  profile : u.spi.profile = s.spi.profile
  spe : u.spi.spe = s.spi.spe
  txDmaEn : u.spi.txDmaEn = s.spi.txDmaEn
  seq : u.seq.state = s.seq.state
  irq : u.irq = s.irq
  hd : u.hd = s.hd
  cs : u.line.cs = s.line.cs

/-- The two states agree on the foreground's place and its saved status. -/
structure SamePlace (s u : State) : Prop where
  prog : u.prog = s.prog
  pc : u.fg.pc = s.fg.pc
  k : u.fg.k = s.fg.k
  status : u.fg.status = s.fg.status

theorem SamePlace.of_fg {s u : State} (prog : u.prog = s.prog) (fg : u.fg = s.fg) : SamePlace s u :=
  ⟨prog, by rw [fg], by rw [fg], by rw [fg]⟩

theorem SamePlace.pending {s u : State} (h : SamePlace s u) : u.pending = s.pending := State.pending_congr h.1 h.2 h.3

theorem SamePlace.inHandshake {s u : State} (h : SamePlace s u) : u.inHandshake ↔ s.inHandshake := by
  rw [State.inHandshake, State.inHandshake, State.fetch_congr h.1 h.2, h.3]

theorem SameLink.bsy {s u : State} (h : SameLink s u) : u.bsy = s.bsy := by rw [State.bsy, State.bsy, h.txBuf, h.shift]

theorem SameLink.exchangeState {s u : State} (h : SameLink s u) (m : Option Micro) :
    exchangeState u m ↔ exchangeState s m := by
  cases m with
  | none => simp only [Machine.exchangeState, State.rxne, h.bsy, h.rxBuf]
  | some m => cases m <;> simp only [Machine.exchangeState, State.rxne, h.bsy, h.rxBuf, h.txBuf, h.shift]

/-- The stream's state is read only to be not Running while the foreground disables the link. -/
theorem LinkAt.congr {ms : List Micro} {s u : State} (inv : LinkAt ms s) (same : SameLink s u)
    (moved : u.dma.state = s.dma.state ∨ s.dma.state = .running) : LinkAt ms u where
  txFits := by rw [same.txBuf, same.profile]; exact inv.txFits
  shiftFits := by rw [same.shift, same.profile]; exact inv.shiftFits
  exchange := by rw [same.profile, same.exchangeState]; exact inv.exchange
  inExchange := by rw [same.profile, same.spe, same.seq]; exact inv.inExchange
  windowSet := by rw [same.seq]; exact inv.windowSet
  windowSetMasked := by rw [same.seq]; exact inv.windowSetMasked
  fillWaits := by rw [same.seq]; exact inv.fillWaits
  armed := by rw [same.seq]; exact inv.armed
  masked := by rw [same.irq, same.hd]; exact inv.masked
  notFed h := by
    rcases moved with moved | running
    · rw [moved]; exact inv.notFed h
    · exact absurd running (inv.notFed h)
  drained := by rw [same.bsy]; exact inv.drained
  stillDrained := by rw [same.bsy]; exact inv.stillDrained
  notCleared := by rw [same.seq]; exact inv.notCleared
  waitedFor := by rw [same.spe]; exact inv.waitedFor
  armedEnabled := by rw [same.spe, same.seq]; exact inv.armedEnabled

theorem TeardownAt.congr {j : Nat} {status : BitVec 5} {s u : State} (h : TeardownAt s j status) (same : SameLink s u)
    (moved : u.dma.state = s.dma.state ∨ s.dma.state = .running) : TeardownAt u j status where
  complete tc := by
    rcases moved with moved | running
    · rw [moved]; exact h.complete tc
    · rw [h.complete tc] at running; cases running
  guarded := by rw [same.seq]; exact h.guarded
  deselected := by rw [same.cs]; exact h.deselected
  drained := by rw [same.bsy]; exact h.drained
  disabled := by rw [same.spe]; exact h.disabled
  reconfigured := by rw [same.profile, same.txDmaEn, same.rxBuf]; exact h.reconfigured
  enabled := by rw [same.spe]; exact h.enabled

theorem BlockInv.congr {s u : State} (inv : BlockInv s) (same : SameLink s u) (place : SamePlace s u)
    (moved : u.dma.state = s.dma.state ∨ s.dma.state = .running) : BlockInv u where
  link := by rw [place.pending]; exact inv.link.congr same moved
  teardown :=
    { handler := fun j status r active => by
        obtain ⟨low, high, at_⟩ := inv.teardown.handler j status r (same.hd ▸ active)
        exact ⟨low, high, at_.congr same moved⟩
      handshake := fun inside => by
        obtain ⟨inactive, masked, at_⟩ := inv.teardown.handshake (place.inHandshake.1 inside)
        rw [same.hd, same.irq, place.k, place.status]
        exact ⟨inactive, masked, fun h => (at_ h).congr same moved⟩
      streaming := by rw [same.seq, same.spe, same.hd, place.inHandshake, place.k]; exact inv.teardown.streaming }

/-! ### Lists without a claim -/

/-- The micro-step is one no clause of `LinkAt` but `stillDrained` speaks of. -/
def Micro.plain : Micro → Bool
  | .waitRx | .dropRx | .takeResult | .clearSpe | .armSequencer | .requestOn | .restoreMask | .windowSet
  | .windowSetMasked => false
  | .setDc _ | .put _ | .waitNotBusy | .waitSpeClear | .streamingProfile | .setSpe | .waitSpeSet | .waitDmaOff
  | .pipeline _ | .selectData | .startStream | .waitReady | .waitSeqIdle => true

theorem Micro.not_awaitsByte_of_plain {m : Micro} (h : m.plain = true) : ¬ awaitsByte m := by
  rintro (rfl | rfl | rfl) <;> cases h

theorem State.bsy_eq_false_iff (s : State) : s.bsy = false ↔ s.spi.txBuf = none ∧ s.spi.shift = none := by
  simp [State.bsy]

/-- Outside an exchange the link in CommandMode is empty. -/
theorem exchangeState_of_not_awaits {s : State} {o : Option Micro} (h : ∀ m, o = some m → ¬ awaitsByte m) :
    exchangeState s o ↔ s.bsy = false ∧ s.rxne = false := by
  cases o with
  | none => rfl
  | some m =>
    have out := h m rfl
    cases m
    case waitRx | dropRx | takeResult => exact absurd (by simp [awaitsByte]) out
    all_goals rfl

/-- What a list of plain micro-steps leaves of `LinkAt`. -/
theorem LinkAt.of_plain {ms : List Micro} {s : State} (plain : ∀ m ∈ ms, m.plain = true)
    (txFits : ∀ f, s.spi.txBuf = some f → frameFits s.spi.profile f)
    (shiftFits : ∀ x, s.spi.shift = some x → frameFits s.spi.profile x.frame)
    (quiet : s.spi.profile = .command → s.bsy = false ∧ s.rxne = false) (unarmed : s.seq.state ≠ .streamingArmed)
    (stillDrained : Micro.streamingProfile ∈ ms → s.bsy = false) : LinkAt ms s where
  txFits := txFits
  shiftFits := shiftFits
  exchange command := (exchangeState_of_not_awaits fun m hm =>
    Micro.not_awaitsByte_of_plain (plain m (List.mem_of_mem_head? hm))).2 (quiet command)
  inExchange m hm awaits := absurd awaits (Micro.not_awaitsByte_of_plain (plain m hm))
  windowSet h := nomatch plain _ h
  windowSetMasked h := nomatch plain _ h
  fillWaits h := nomatch plain _ h
  armed := ⟨fun q => absurd q unarmed, fun h => nomatch plain _ h.1⟩
  masked h := nomatch plain _ h
  notFed h := nomatch plain _ h
  drained h := nomatch plain _ h
  stillDrained h _ := stillDrained h
  notCleared h := nomatch plain _ h
  waitedFor h := nomatch plain _ h
  armedEnabled q := absurd q unarmed

/-- While Streaming the foreground is in none of the parts that the clauses speak of, when it does not hold the mask. -/
theorem LinkAt.plain_of_streaming {ms : List Micro} {s : State} (inv : LinkAt ms s) (streaming : s.seq.state = .streaming)
    (free : Micro.restoreMask ∈ ms → Micro.windowSetMasked ∈ ms) : ∀ m ∈ ms, m.plain = true := by
  have unmasked : Micro.windowSetMasked ∉ ms := fun h => by
    have idle := inv.windowSetMasked h
    simp [streaming] at idle
  have unarmed : Micro.armSequencer ∉ ms := fun h => by
    have waiting := inv.fillWaits h unmasked
    simp [streaming] at waiting
  intro m hm
  cases m
  case waitRx | dropRx | takeResult =>
    obtain ⟨-, -, -, still⟩ := inv.inExchange _ hm (by simp [awaitsByte])
    exact absurd streaming still
  case clearSpe => exact absurd streaming (inv.notCleared hm).2
  case armSequencer => exact absurd hm unarmed
  case requestOn =>
    have armed := inv.armed.2 ⟨hm, unarmed⟩
    simp [streaming] at armed
  case restoreMask => exact absurd (free hm) unmasked
  case windowSet =>
    have before := inv.windowSet hm
    simp [streaming] at before
  case windowSetMasked => exact absurd hm unmasked
  all_goals rfl

/-! ### One step of the teardown -/

/-- What a step of the teardown does, step by step (R243). -/
inductive TeardownNext (status : BitVec 5) (r : Half) (s : State) : Nat → Nat → State → Prop
  | h1 : TeardownNext status r s 1 2 (serviceErrors status r s)
  | h2Guarded (guard : teardownGuard status s = true) : TeardownNext status r s 2 3 (clearCompletion status s)
  | h2Unguarded (guard : teardownGuard status s = false) : TeardownNext status r s 2 10 (clearCompletion status s)
  | h3 : TeardownNext status r s 3 4 (s.setLine .cs false)
  | h4 (drained : s.bsy = false) : TeardownNext status r s 4 5 s
  | h5 : TeardownNext status r s 5 6 (s.setSpe false)
  | h6 (off : s.spi.spe = false) : TeardownNext status r s 6 7 s
  | h7 : TeardownNext status r s 7 8 (s.profileWrite .command)
  | h8 : TeardownNext status r s 8 9 (s.setSpe true)
  | h9 (on : s.spi.spe = true) : TeardownNext status r s 9 10 (s.setSeq .idle)
  | h10 : TeardownNext status r s 10 11 { s with trace := s.trace ++ hookEvents s.par [.tc] status r }

theorem teardownStep_next {j j' : Nat} {status : BitVec 5} {r : Half} {s v : State}
    (h : teardownStep j status r s = some (j', v)) : TeardownNext status r s j j' v := by
  unfold teardownStep at h
  split at h
  case h_2 =>
    obtain ⟨rfl, rfl⟩ := Prod.mk.inj (Option.some.inj h)
    cases guard : teardownGuard status s
    · exact .h2Unguarded guard
    · exact .h2Guarded guard
  case h_4 | h_6 | h_9 =>
    split at h
    all_goals simp only [reduceCtorEq, Option.some.injEq, Prod.mk.injEq] at h
    obtain ⟨rfl, rfl⟩ := h
    constructor
    simp_all
  case h_10 =>
    obtain ⟨rfl, rfl⟩ := Prod.mk.inj (Option.some.inj h)
    rw [completionHook_eq]
    exact .h10
  case h_11 => cases h
  all_goals
    obtain ⟨rfl, rfl⟩ := Prod.mk.inj (Option.some.inj h)
    constructor

/-- A step of the teardown keeps the clauses on the link: up to H3 and at H10 it leaves the link alone, between them the sequencer
is Streaming, where no list makes a claim. -/
theorem LinkAt.teardownStep {ms : List Micro} {j j' : Nat} {status : BitVec 5} {r : Half} {s v : State} (inv : LinkAt ms s)
    (at_ : TeardownAt s j status) (free : Micro.restoreMask ∈ ms → Micro.windowSetMasked ∈ ms)
    (h : TeardownNext status r s j j' v) : LinkAt ms v := by
  have still (low : 3 ≤ j) (high : j ≤ 9) :
      (∀ m ∈ ms, m.plain = true) ∧ (Micro.streamingProfile ∈ ms → s.bsy = false) ∧
      (s.spi.profile = .command → s.bsy = false ∧ s.rxne = false) ∧ s.seq.state ≠ .streamingArmed := by
    have streaming := (at_.guarded low high).2
    have plain := inv.plain_of_streaming streaming free
    refine ⟨plain, fun hm => inv.stillDrained hm fun clear => (nomatch plain _ clear), fun command => ?_, by simp [streaming]⟩
    exact (exchangeState_of_not_awaits fun m hm =>
      Micro.not_awaitsByte_of_plain (plain m (List.mem_of_mem_head? hm))).1 (inv.exchange command)
  cases h
  case h1 =>
    rw [serviceErrors_eq]
    exact inv.congr ⟨rfl, rfl, rfl, rfl, rfl, rfl, rfl, rfl, rfl, rfl⟩ (.inl rfl)
  case h2Guarded | h2Unguarded =>
    rw [clearCompletion_eq]
    exact inv.congr ⟨rfl, rfl, rfl, rfl, rfl, rfl, rfl, rfl, rfl, rfl⟩ (.inl rfl)
  case h4 | h6 => exact inv
  case h10 => exact inv.congr ⟨rfl, rfl, rfl, rfl, rfl, rfl, rfl, rfl, rfl, rfl⟩ (.inl rfl)
  case h3 | h5 | h8 =>
    obtain ⟨plain, drained, quiet, unarmed⟩ := still (by decide) (by decide)
    exact .of_plain plain inv.txFits inv.shiftFits quiet unarmed drained
  case h7 =>
    obtain ⟨plain, -, -, unarmed⟩ := still (by decide) (by decide)
    have drained := at_.drained (by decide) (by decide)
    obtain ⟨noTx, noShift⟩ := s.bsy_eq_false_iff.1 drained
    exact .of_plain plain (by simp [noTx]) (by simp [noShift]) (fun _ => ⟨drained, rfl⟩) unarmed fun _ => drained
  case h9 =>
    obtain ⟨plain, drained, quiet, -⟩ := still (by decide) (by decide)
    exact .of_plain plain inv.txFits inv.shiftFits quiet nofun drained

/-- Outside H3 to H9 a teardown claims only the completion. -/
theorem TeardownAt.of_outside {s : State} {j : Nat} {status : BitVec 5} (outside : j < 3 ∨ 9 < j)
    (complete : hasFlag status .tc = true → s.dma.state = .complete) : TeardownAt s j status where
  complete := complete
  guarded _ _ := by omega
  deselected _ _ := by omega
  drained _ _ := by omega
  disabled _ _ := by omega
  reconfigured _ _ := by omega
  enabled _ := by omega

theorem TeardownAt.with_hd {s : State} {j : Nat} {status : BitVec 5} (h : TeardownAt s j status) (a : Handler) :
    TeardownAt { s with hd := a } j status := ⟨h.1, h.2, h.3, h.4, h.5, h.6, h.7⟩

/-- A step of the teardown goes on as its next step claims. -/
theorem TeardownAt.next {j j' : Nat} {status : BitVec 5} {r : Half} {s v : State} (at_ : TeardownAt s j status)
    (h : TeardownNext status r s j j' v) : TeardownAt v j' status := by
  have complete := at_.complete
  cases h
  case h1 => exact .of_outside (by decide) (by rw [serviceErrors_eq]; exact complete)
  case h2Unguarded => exact .of_outside (by decide) (by rw [clearCompletion_eq]; exact complete)
  case h2Guarded guard =>
    rw [clearCompletion_eq]
    exact ⟨complete, fun _ _ => by simpa [teardownGuard] using guard, by omega, by omega, by omega, by omega, by omega⟩
  case h9 | h10 => exact .of_outside (by decide) complete
  case h3 =>
    have guarded := at_.guarded (by decide) (by decide)
    exact ⟨complete, fun _ _ => guarded, fun _ _ => rfl, by omega, by omega, by omega, by omega⟩
  all_goals
    have guarded := at_.guarded (by decide) (by decide)
    have deselected := at_.deselected (by decide) (by decide)
  case h4 drained =>
    exact ⟨complete, fun _ _ => guarded, fun _ _ => deselected, fun _ _ => drained, by omega, by omega, by omega⟩
  all_goals have drained := at_.drained (by decide) (by decide)
  case h5 =>
    exact ⟨complete, fun _ _ => guarded, fun _ _ => deselected, fun _ _ => drained, fun _ _ => rfl, by omega, by omega⟩
  all_goals have disabled := at_.disabled (by decide) (by decide)
  case h6 =>
    exact ⟨complete, fun _ _ => guarded, fun _ _ => deselected, fun _ _ => drained, fun _ _ => disabled, by omega, by omega⟩
  case h7 =>
    exact ⟨complete, fun _ _ => guarded, fun _ _ => deselected, fun _ _ => drained, fun _ _ => disabled,
      fun _ _ => ⟨rfl, rfl, rfl⟩, by omega⟩
  case h8 =>
    have reconfigured := at_.reconfigured (by decide) (by decide)
    exact ⟨complete, fun _ _ => guarded, fun _ _ => deselected, fun _ _ => drained, by omega, fun _ _ => reconfigured,
      fun _ => rfl⟩

/-- While Streaming the link is enabled but between H5 and H8. -/
def EnabledAt (s : State) (j : Nat) : Prop := s.seq.state = .streaming → s.spi.spe = true ∨ (6 ≤ j ∧ j ≤ 8)

theorem EnabledAt.next {j j' : Nat} {status : BitVec 5} {r : Half} {s v : State} (at_ : EnabledAt s j)
    (h : TeardownNext status r s j j' v) : EnabledAt v j' := by
  cases h
  case h1 => rw [serviceErrors_eq]; exact fun q => .inl ((at_ q).resolve_right (by decide))
  case h2Guarded | h2Unguarded =>
    rw [clearCompletion_eq]
    exact fun q => .inl ((at_ q).resolve_right (by decide))
  case h3 | h4 | h10 => exact fun q => .inl ((at_ q).resolve_right (by decide))
  case h5 | h6 | h7 => exact fun _ => .inr (by decide)
  case h8 => exact fun _ => .inl rfl
  case h9 => exact nofun

theorem TeardownNext.bounds {j j' : Nat} {status : BitVec 5} {r : Half} {s v : State} (h : TeardownNext status r s j j' v) :
    1 ≤ j ∧ j ≤ 10 ∧ 2 ≤ j' ∧ j' ≤ 11 := by
  cases h <;> decide

/-- The mask's clause does not read the handler when the foreground does not hold the mask. -/
theorem LinkAt.with_hd {ms : List Micro} {s : State} (inv : LinkAt ms s)
    (free : Micro.restoreMask ∈ ms → Micro.windowSetMasked ∈ ms) (a : Handler) : LinkAt ms { s with hd := a } where
  txFits := inv.txFits
  shiftFits := inv.shiftFits
  exchange := inv.exchange
  inExchange := inv.inExchange
  windowSet := inv.windowSet
  windowSetMasked := inv.windowSetMasked
  fillWaits := inv.fillWaits
  armed := inv.armed
  masked holds unmasked := absurd (free holds) unmasked
  notFed := inv.notFed
  drained := inv.drained
  stillDrained := inv.stillDrained
  notCleared := inv.notCleared
  waitedFor := inv.waitedFor
  armedEnabled := inv.armedEnabled

end Sys2Proof.Machine
end

section
/-! PROOF. Every step of an agent but the foreground keeps the clauses of the invariant on the link and on a teardown under way. -/

namespace Sys2Proof.Machine

/-- While the handler is active the foreground does not hold the mask, nor is it inside SEQ.HANDSHAKE (R242, R248). -/
theorem BlockInv.free_of_active {s : State} (inv : BlockInv s) (active : s.hd ≠ .inactive) :
    (Micro.restoreMask ∈ s.pending → Micro.windowSetMasked ∈ s.pending) ∧ ¬ s.inHandshake :=
  ⟨fun holds => by_contra fun unmasked => active (inv.link.masked holds unmasked).2,
    fun inside => active (inv.teardown.handshake inside).1⟩

/-- While interrupts are not masked the foreground does not hold the mask, nor is it inside SEQ.HANDSHAKE. -/
theorem BlockInv.free_of_unmasked {s : State} (inv : BlockInv s) (unmasked : s.irq.masked = false) :
    (Micro.restoreMask ∈ s.pending → Micro.windowSetMasked ∈ s.pending) ∧ ¬ s.inHandshake := by
  refine ⟨fun holds => by_contra fun set => ?_, fun inside => ?_⟩
  · simp [(inv.link.masked holds set).1] at unmasked
  · simp [(inv.teardown.handshake inside).2.1] at unmasked

/-- While the handler is active at a step the link is enabled as that step says. -/
theorem BlockInv.enabledAt {s : State} (inv : BlockInv s) {j : Nat} {status : BitVec 5} {r : Half}
    (active : s.hd = .active j status r) : EnabledAt s j := by
  intro streaming
  rcases inv.teardown.streaming streaming with on | ⟨i, _, _, active', low, high⟩ | ⟨inside, -⟩
  · exact .inl on
  · obtain ⟨rfl, -⟩ := Handler.active.inj (active.symm.trans active')
    exact .inr ⟨low, high⟩
  · exact absurd inside (inv.free_of_active (by simp [active])).2

/-- An active handler's clauses are the whole of the teardown's. -/
theorem TeardownInv.of_active {s : State} {j : Nat} {status : BitVec 5} {r : Half} (active : s.hd = .active j status r)
    (bounds : 1 ≤ j ∧ j ≤ 11) (at_ : TeardownAt s j status) (enabled : EnabledAt s j) (outside : ¬ s.inHandshake) :
    TeardownInv s where
  handler i status' r' active' := by
    obtain ⟨rfl, rfl, -⟩ := Handler.active.inj (active.symm.trans active')
    exact ⟨bounds.1, bounds.2, at_⟩
  handshake inside := absurd inside outside
  streaming q := (enabled q).imp_right fun between => .inl ⟨j, status, r, active, between⟩

/-- Without an activation and outside SEQ.HANDSHAKE there is no teardown. -/
theorem TeardownInv.of_inactive {s : State} (inactive : s.hd = .inactive) (outside : ¬ s.inHandshake)
    (enabled : s.seq.state = .streaming → s.spi.spe = true) : TeardownInv s where
  handler _ _ _ active := by rw [inactive] at active; cases active
  handshake inside := absurd inside outside
  streaming q := .inl (enabled q)

theorem TeardownInv.enabled_of_inactive {s : State} (inv : TeardownInv s) (inactive : s.hd = .inactive)
    (outside : ¬ s.inHandshake) (streaming : s.seq.state = .streaming) : s.spi.spe = true := by
  rcases inv.streaming streaming with on | ⟨_, _, _, active, -⟩ | ⟨inside, -⟩
  · exact on
  · rw [inactive] at active; cases active
  · exact absurd inside outside

/-! ### The handler and the entry -/

theorem BlockInv.handlerStep {s : State} (inv : BlockInv s) : BlockInv (handlerStep s) := by
  rcases handlerStep_cases s with e | ⟨status, r, active, e⟩ | ⟨j, status, r, j', v, active, before, step, e⟩ <;> rw [e]
  · exact inv
  · obtain ⟨free, outside⟩ := inv.free_of_active (by simp [active])
    exact ⟨inv.link.with_hd free _, .of_inactive rfl outside fun q => (inv.enabledAt active q).resolve_right (by decide)⟩
  · obtain ⟨free, outside⟩ := inv.free_of_active (by simp [active])
    obtain ⟨-, -, at_⟩ := inv.teardown.handler j status r active
    obtain ⟨-, fg, -, -, -, -, -, prog, -⟩ := teardownStep_keeps step
    have next := teardownStep_next step
    have place : SamePlace s { v with hd := .active j' status r } := .of_fg prog fg
    refine ⟨?_, .of_active rfl ?_ ?_ ?_ ?_⟩
    · rw [place.pending]
      exact (inv.link.teardownStep at_ free next).with_hd free _
    · have := next.bounds
      omega
    · exact (at_.next next).with_hd _
    · have enabled : EnabledAt v j' := (inv.enabledAt active).next next
      exact enabled
    · rw [place.inHandshake]
      exact outside

theorem BlockInv.entryStep {s : State} (inv : BlockInv s) (engine : EngineInv s) : BlockInv (entryStep s) := by
  unfold Machine.entryStep
  split
  · rename_i taken
    obtain ⟨-, -, inactive, -, unmasked, -⟩ := s.takeable_iff.1 taken
    obtain ⟨free, outside⟩ := inv.free_of_unmasked unmasked
    refine ⟨inv.link.with_hd free _, .of_active rfl (by decide) (.of_outside (by decide) ?_) ?_ outside⟩
    · intro tc
      rw [hasFlag_and, Bool.and_eq_true] at tc
      exact engine.completeFlag tc.1
    · exact fun q => .inl (inv.teardown.enabled_of_inactive inactive outside q)
  · exact inv

/-! ### The engine and the environment -/

theorem BlockInv.fetchStep {s : State} (inv : BlockInv s) : BlockInv (fetchStep s) := by
  by_cases on : s.fetchEnabled = true
  · obtain ⟨running, -⟩ := s.fetchEnabled_iff.1 on
    have same : SameLink s s.fetchElement ∧ SamePlace s s.fetchElement := by
      unfold State.fetchElement
      simp only
      split <;> exact ⟨by constructor <;> rfl, by constructor <;> rfl⟩
    rw [fetchStep_of_enabled on]
    exact inv.congr same.1 same.2 (.inr running)
  · rw [fetchStep_of_not_enabled on]
    exact inv

theorem BlockInv.errorStep {s : State} (inv : BlockInv s) : BlockInv (errorStep s) := by
  by_cases running : s.dma.state = .running
  · have same : SameLink s (Machine.errorStep s) ∧ SamePlace s (Machine.errorStep s) := by
      simp only [Machine.errorStep, if_pos running]
      split <;> exact ⟨by constructor <;> simp, by constructor <;> simp⟩
    exact inv.congr same.1 same.2 (.inr running)
  · rw [errorStep_of_not_running running]
    exact inv

/-- Where the profile of a fill is still to come, its stream is not started (R195). -/
theorem startStream_mem_of_streamingProfile {s : State} (h : Micro.streamingProfile ∈ s.pending) :
    Micro.startStream ∈ s.pending := by
  obtain ⟨after, shape, sub⟩ := shaped_of_mem s.shaped_pending h
  simp only [shapeAt, Bool.and_eq_true, List.contains_iff_mem] at shape
  exact sub _ shape.1.2

/-- A handoff writes the stream and the transmit buffer. -/
theorem handElement_complete_eq (s : State) :
    s.handElement.halfTransfer.complete =
      { s with
        spi := { s.spi with txBuf := some (.f16 (s.fifoHead.setWidth 16)) }
        dma := s.handElement.halfTransfer.complete.dma } := by
  unfold State.complete State.halfTransfer
  split <;> split <;> rfl

theorem BlockInv.handoffStep {s u : State} (inv : BlockInv s) (engine : EngineInv s) (h : handoffStep s = .next u) :
    BlockInv u := by
  by_cases on : s.handoffEnabled = true
  · obtain ⟨running, -⟩ := s.handoffEnabled_iff.1 on
    rw [handoffStep_of_enabled on] at h
    split at h
    · cases h
    rename_i fits
    obtain rfl := Host.Outcome.next.inj h
    have streaming : s.spi.profile = .streaming := by simpa using (not_or.1 fits).1
    have notCleared : Micro.clearSpe ∉ s.pending := fun hm => inv.link.notFed hm running
    have notProfiled : Micro.streamingProfile ∉ s.pending := fun hm =>
      engine.notStarted (startStream_mem_of_streamingProfile hm) running
    have early {j : Nat} {status : BitVec 5} (at_ : TeardownAt s j status) : ¬ (3 ≤ j ∧ j ≤ 9) := fun ⟨low, high⟩ => by
      simp [at_.complete (at_.guarded low high).1] at running
    have incomplete {j : Nat} {status : BitVec 5} (at_ : TeardownAt s j status) : ¬ hasFlag status .tc = true := fun tc => by
      simp [at_.complete tc] at running
    have handed {j : Nat} {status : BitVec 5} (at_ : TeardownAt s j status) (d : Dma) (x : Spi) :
        TeardownAt { s with dma := d, spi := x } j status :=
      have outside := early at_
      .of_outside (by omega) fun tc => absurd tc (incomplete at_)
    have link := inv.link
    rw [handElement_complete_eq]
    refine ⟨?_, fun j status r active => ?_, fun inside => ?_, inv.teardown.streaming⟩
    · exact
        { link with
          txFits := fun f hf => by obtain rfl := Option.some.inj hf; exact streaming
          exchange := fun command => by simp [streaming] at command
          notFed := fun hm => absurd hm notCleared
          drained := fun hm => absurd hm notCleared
          stillDrained := fun hm => absurd hm notProfiled }
    · obtain ⟨low, high, at_⟩ := inv.teardown.handler j status r active
      exact ⟨low, high, handed at_ _ _⟩
    · obtain ⟨inactive, masked, at_⟩ := inv.teardown.handshake inside
      exact ⟨inactive, masked, fun started => handed (at_ started) _ _⟩
  · rw [handoffStep_of_not_enabled on] at h
    exact Host.Outcome.next.inj h ▸ inv

/-! ### The shifter -/

/-- A step of a busy link's shifter: frames fit the profile, and in CommandMode a byte on its way is the exchange's. No other clause
reads the buffers of a busy link. -/
theorem BlockInv.of_busy {s : State} (inv : BlockInv s) (busy : s.bsy = true) (tx : Option Frame) (sh : Option Shifting)
    (rx : Option Byte) (tr : List Event) (q : Inputs) {u : State}
    (h : u = { s with spi := { s.spi with txBuf := tx, shift := sh, rxBuf := rx }, trace := tr, inp := q })
    (txFits : ∀ f, tx = some f → frameFits s.spi.profile f)
    (shiftFits : ∀ x, sh = some x → frameFits s.spi.profile x.frame)
    (exchange : s.spi.profile = .command → exchangeState u s.pending.head?) : BlockInv u := by
  have shifted {j : Nat} {status : BitVec 5} (at_ : TeardownAt s j status) : TeardownAt u j status := by
    have early : ¬ (5 ≤ j ∧ j ≤ 9) := fun ⟨low, high⟩ => by simp [at_.drained low high] at busy
    subst h
    exact { at_ with drained := fun low high => absurd ⟨low, high⟩ early, reconfigured := fun low high => by omega }
  have link := inv.link
  refine ⟨?_, fun j status r active => ?_, fun inside => ?_, ?_⟩
  · have waits (hm : Micro.clearSpe ∈ s.pending) : Micro.waitNotBusy ∈ s.pending := by_contra fun drained => by
      simp [link.drained hm drained] at busy
    have cleared (hm : Micro.streamingProfile ∈ s.pending) : Micro.clearSpe ∈ s.pending := by_contra fun drained => by
      simp [link.stillDrained hm drained] at busy
    subst h
    exact
      { link with
        txFits, shiftFits, exchange
        drained := fun hm drained => absurd (waits hm) drained
        stillDrained := fun hm drained => absurd (cleared hm) drained }
  · obtain ⟨low, high, at_⟩ := inv.teardown.handler j status r (by rwa [h] at active)
    exact ⟨low, high, shifted at_⟩
  · rw [h] at inside
    obtain ⟨inactive, masked, at_⟩ := inv.teardown.handshake inside
    have fg : u.fg = s.fg := by rw [h]
    rw [fg]
    exact ⟨by rwa [h], by rwa [h], fun started => shifted (at_ started)⟩
  · rw [h]
    exact inv.teardown.streaming

/-- In CommandMode a busy link is at the wait of an exchange, with its byte in one of the two buffers (R165). -/
theorem exchangeState.of_busy {s : State} {o : Option Micro} (h : exchangeState s o) (busy : s.bsy = true) :
    o = some .waitRx ∧
    ((s.spi.txBuf.isSome = true ∧ s.spi.shift = none ∧ s.spi.rxBuf = none) ∨
      (s.spi.txBuf = none ∧ s.spi.shift.isSome = true ∧ s.spi.rxBuf = none)) := by
  have idle : ¬ s.bsy = false := by simp [busy]
  by_cases waits : o = some .waitRx
  · subst waits
    rcases h with tx | shift | ⟨empty, -⟩
    · exact ⟨rfl, .inl tx⟩
    · exact ⟨rfl, .inr shift⟩
    · exact absurd empty idle
  · cases o with
    | none => exact absurd h.1 idle
    | some m =>
      cases m
      case waitRx => exact absurd rfl waits
      all_goals exact absurd h.1 idle

theorem BlockInv.shifterStep {s : State} (inv : BlockInv s) : BlockInv (shifterStep s) := by
  by_cases hold : s.spi.spe = false ∨ (s.spi.shift = none ∧ s.spi.txBuf = none)
  · rw [shifterStep_of_hold hold]
    exact inv
  have on : s.spi.spe = true := by simpa using (not_or.1 hold).1
  have busy : s.bsy = true := by
    have full := (not_or.1 hold).2
    rw [← Bool.not_eq_false, s.bsy_eq_false_iff]
    exact fun ⟨noTx, noShift⟩ => full ⟨noShift, noTx⟩
  have waiting (command : s.spi.profile = .command) := (inv.link.exchange command).of_busy busy
  cases shifting : s.spi.shift with
  | none =>
    obtain ⟨f, loaded⟩ : ∃ f, s.spi.txBuf = some f := by
      cases tx : s.spi.txBuf with
      | none => exact absurd (.inr ⟨shifting, tx⟩) hold
      | some f => exact ⟨f, rfl⟩
    rw [shifterStep_of_load on shifting loaded]
    refine inv.of_busy busy none (some ⟨f, s.line.cs, s.line.dc⟩) s.spi.rxBuf s.trace s.inp rfl nofun (fun x hx => ?_)
      fun command => ?_
    · obtain rfl := Option.some.inj hx
      exact inv.link.txFits f loaded
    · obtain ⟨head, at_⟩ := waiting command
      have empty : s.spi.rxBuf = none := by rcases at_ with ⟨-, -, empty⟩ | ⟨-, -, empty⟩ <;> exact empty
      rw [head]
      exact .inr (.inl ⟨rfl, rfl, empty⟩)
  | some x =>
    rw [shifterStep_of_emit on shifting]
    by_cases command : s.spi.profile = .command
    · obtain ⟨head, at_⟩ := waiting command
      have sent : s.spi.txBuf = none := by
        rcases at_ with ⟨-, none, -⟩ | ⟨sent, -⟩
        · simp [shifting] at none
        · exact sent
      rw [State.emitFrame, State.receive_of_command (by exact command)]
      refine inv.of_busy busy s.spi.txBuf none _ _ _ rfl inv.link.txFits nofun fun _ => ?_
      rw [head]
      exact .inr (.inr ⟨by simp [State.bsy, sent], rfl⟩)
    · rw [State.emitFrame, State.receive_of_not_command (by exact command)]
      exact inv.of_busy busy s.spi.txBuf none s.spi.rxBuf _ s.inp rfl inv.link.txFits nofun fun h => absurd h command

end Sys2Proof.Machine
end

section
/-! PROOF. Every step of the foreground keeps the clauses of the invariant on the link and on a teardown under way, and with it
every step of the block keeps the invariant. -/

namespace Sys2Proof.Machine

/-! ### What follows a micro-step, as to exchanges -/

/-- The micro-step is one of `window_bytes` (R194). -/
def Micro.ofWindow : Micro → Bool
  | .setDc _ | .put _ | .waitRx | .dropRx => true
  | _ => false

/-- An exchange comes after none but the micro-steps of `window_bytes`. -/
theorem noExchange_of_shapeAt {m : Micro} {ms : List Micro} (shape : shapeAt m ms = true) (out : m.ofWindow = false) :
    ∀ x ∈ ms, ¬ awaitsByte x := by
  intro x hx
  cases m
  case setDc | put | waitRx | dropRx => cases out
  case requestOn =>
    obtain _ | ⟨y, ys⟩ := ms
    · cases hx
    · simp_all [shapeAt, awaitsByte]
  all_goals
    simp only [shapeAt, Bool.and_eq_true, Bool.or_eq_true, noExchange_iff, List.isEmpty_iff, beforeStart_iff] at shape
    grind

/-- A put is followed by its wait and a wait by its read; behind the others no exchange is under way. -/
theorem headQuiet_of_shapeAt {m : Micro} {ms : List Micro} (shape : shapeAt m ms = true) (put : ∀ b, m ≠ .put b)
    (waits : m ≠ .waitRx) : ∀ x, ms.head? = some x → ¬ awaitsByte x := by
  intro x hx
  cases m
  case put b => exact absurd rfl (put b)
  case waitRx => exact absurd rfl waits
  case setDc | dropRx =>
    simp only [shapeAt, Bool.and_eq_true, headQuiet_iff] at shape
    exact shape.1 x hx
  all_goals exact noExchange_of_shapeAt shape rfl x (List.mem_of_mem_head? hx)

theorem shapeAt_requestOn {ms : List Micro} (shape : shapeAt .requestOn ms = true) : ms = [.restoreMask] := by
  obtain _ | ⟨y, ys⟩ := ms <;> simp_all [shapeAt]

/-! ### The byte's read (R165) -/

/-- With or without a byte, µ3 of SPI.XCHG leaves the receive buffer empty and writes only RES and the trace besides. -/
theorem Micro.act_takeResult (s : State) :
    ∃ v tr, Micro.takeResult.act s = { s with res := v, trace := tr, spi := { s.spi with rxBuf := none } } := by
  cases h : s.spi.rxBuf with
  | none =>
    have same : { s.spi with rxBuf := none } = s.spi := by rw [← h]
    exact ⟨s.res, s.trace, by simp only [act, h, same]⟩
  | some b => exact ⟨_, _, by simp only [act, h]; rfl⟩

theorem LinkAt.act_takeResult {ms : List Micro} {s : State} (inv : LinkAt (.takeResult :: ms) s)
    (shape : shapeAt .takeResult ms = true) : LinkAt ms (Micro.takeResult.act s) := by
  obtain rfl : ms = [] := by simpa [shapeAt] using shape
  obtain ⟨command, -, unarmed, -⟩ := inv.inExchange _ List.mem_cons_self (by simp [awaitsByte])
  obtain ⟨v, tr, e⟩ := Micro.act_takeResult s
  rw [e]
  exact .of_plain nofun inv.txFits inv.shiftFits (fun _ => ⟨(inv.exchange command).1, rfl⟩) unarmed nofun

/-! ### The other later micro-steps (R194, R195): one lemma per clause, in which those that touch it are told apart -/

section

variable {m : Micro} {ms : List Micro} {s : State} (inv : LinkAt (m :: ms) s) (shape : shapeAt m ms = true)
  (other : m ≠ .takeResult)

include inv shape other

theorem LinkAt.act_txFits : ∀ f, (m.act s).spi.txBuf = some f → frameFits (m.act s).spi.profile f := by
  cases m
  case put b =>
    rintro f ⟨⟩
    have waits : Micro.waitRx ∈ ms := by
      simp [shapeAt] at shape
      exact List.mem_of_mem_head? shape.1
    exact (inv.inExchange _ (List.mem_cons_of_mem _ waits) (.inl rfl)).1
  case streamingProfile =>
    simp [shapeAt] at shape
    have drained := inv.stillDrained List.mem_cons_self (by simp [shape])
    exact fun f full => nomatch (s.bsy_eq_false_iff.1 drained).1.symm.trans full
  case takeResult => exact absurd rfl other
  all_goals exact inv.txFits

theorem LinkAt.act_shiftFits : ∀ x, (m.act s).spi.shift = some x → frameFits (m.act s).spi.profile x.frame := by
  cases m
  case streamingProfile =>
    simp [shapeAt] at shape
    have drained := inv.stillDrained List.mem_cons_self (by simp [shape])
    exact fun x full => nomatch (s.bsy_eq_false_iff.1 drained).2.symm.trans full
  case takeResult => exact absurd rfl other
  all_goals exact inv.shiftFits

theorem LinkAt.act_exchange (ready : m.ready s = true) :
    (m.act s).spi.profile = .command → exchangeState (m.act s) ms.head? := by
  have head := headQuiet_of_shapeAt shape
  have quiet (out : ¬ awaitsByte m) (command : s.spi.profile = .command) : s.bsy = false ∧ s.rxne = false :=
    (exchangeState_of_not_awaits (by rintro _ ⟨⟩; exact out)).1 (inv.exchange command)
  cases m
  case put b =>
    intro command
    obtain ⟨empty, unread⟩ := inv.exchange command
    have next : ms.head? = some .waitRx := by simp [shapeAt] at shape; exact shape.1
    have noRx : s.spi.rxBuf = none := by simpa [State.rxne] using unread
    rw [next]
    exact .inl ⟨rfl, (s.bsy_eq_false_iff.1 empty).2, noRx⟩
  case waitRx =>
    intro command
    have received : s.bsy = false ∧ s.rxne = true := by
      have some : s.spi.rxBuf ≠ none := by simpa [Micro.ready, State.rxne, Option.isSome_iff_ne_none] using ready
      rcases inv.exchange command with ⟨-, -, none⟩ | ⟨-, -, none⟩ | received
      · exact absurd none some
      · exact absurd none some
      · exact received
    have next : ms.head? = some .dropRx ∨ ms.head? = some .takeResult := by simp [shapeAt] at shape; exact shape.1
    rcases next with next | next <;> rw [next] <;> exact received
  case dropRx =>
    intro command
    rw [exchangeState_of_not_awaits (head nofun nofun)]
    exact ⟨(inv.exchange command).1, rfl⟩
  case streamingProfile => nofun
  case takeResult => exact absurd rfl other
  all_goals
    intro command
    rw [exchangeState_of_not_awaits (head nofun nofun)]
    exact quiet (by simp [awaitsByte]) command

theorem LinkAt.act_inExchange : ∀ x ∈ ms, awaitsByte x →
    (m.act s).spi.profile = .command ∧ (m.act s).spi.spe = true ∧ (m.act s).seq.state ≠ .streamingArmed ∧
    (m.act s).seq.state ≠ .streaming := by
  intro x hx awaits
  have out : m.ofWindow = true := by
    by_contra out
    exact noExchange_of_shapeAt shape (by simpa using out) x hx awaits
  have before := inv.inExchange x (List.mem_cons_of_mem _ hx) awaits
  cases m
  case setDc | put | waitRx | dropRx => exact before
  all_goals cases out

theorem LinkAt.act_windowSet : Micro.windowSet ∈ ms → (m.act s).seq.state = .idle ∨ (m.act s).seq.state = .windowSet := by
  intro hm
  have before := inv.windowSet (List.mem_cons_of_mem _ hm)
  cases m
  case windowSet | windowSetMasked => exact .inr rfl
  case armSequencer => simp [shapeAt, hm] at shape
  case requestOn => simp [shapeAt_requestOn shape] at hm
  case takeResult => exact absurd rfl other
  all_goals exact before

theorem LinkAt.act_windowSetMasked : Micro.windowSetMasked ∈ ms → (m.act s).seq.state = .idle := by
  intro hm
  have before := inv.windowSetMasked (List.mem_cons_of_mem _ hm)
  cases m
  case windowSetMasked | armSequencer => simp [shapeAt, hm] at shape
  case windowSet => simp_all [shapeAt]
  case requestOn => simp [shapeAt_requestOn shape] at hm
  case takeResult => exact absurd rfl other
  all_goals exact before

theorem LinkAt.act_fillWaits :
    Micro.armSequencer ∈ ms → Micro.windowSetMasked ∉ ms → (m.act s).seq.state = .windowSet := by
  intro hm unmasked
  by_cases set : m = .windowSetMasked
  · subst set
    rfl
  have before := inv.fillWaits (List.mem_cons_of_mem _ hm) (by simp [Ne.symm set, unmasked])
  cases m
  case windowSetMasked => exact absurd rfl set
  case windowSet => rfl
  case armSequencer => simp [shapeAt, hm] at shape
  case requestOn => simp [shapeAt_requestOn shape] at hm
  case takeResult => exact absurd rfl other
  all_goals exact before

theorem LinkAt.act_armed :
    (m.act s).seq.state = .streamingArmed ↔ Micro.requestOn ∈ ms ∧ Micro.armSequencer ∉ ms := by
  have before := inv.armed
  cases m
  case armSequencer =>
    simp [shapeAt] at shape
    exact iff_of_true rfl (by simp [shape])
  case requestOn => exact iff_of_false nofun (by simp [shapeAt_requestOn shape])
  case windowSet => exact iff_of_false nofun (by simp_all [shapeAt])
  case windowSetMasked =>
    simp [shapeAt] at shape
    exact iff_of_false nofun (by simp [shape])
  case takeResult => exact absurd rfl other
  all_goals
    simp only [List.mem_cons, reduceCtorEq, false_or] at before
    exact before

theorem LinkAt.act_masked (inactive : s.hd = .inactive) : Micro.restoreMask ∈ ms → Micro.windowSetMasked ∉ ms →
    (m.act s).irq.masked = true ∧ (m.act s).hd = .inactive := by
  intro hm unmasked
  by_cases set : m = .windowSetMasked
  · subst set
    exact ⟨rfl, inactive⟩
  have before := inv.masked (List.mem_cons_of_mem _ hm) (by simp [Ne.symm set, unmasked])
  cases m
  case windowSetMasked => exact absurd rfl set
  case restoreMask => simp_all [shapeAt]
  case takeResult => exact absurd rfl other
  all_goals exact before

theorem LinkAt.act_notFed : Micro.clearSpe ∈ ms → (m.act s).dma.state ≠ .running := by
  intro hm
  have before := inv.notFed (List.mem_cons_of_mem _ hm)
  cases m
  case armSequencer | startStream | pipeline => simp [shapeAt, hm] at shape
  case takeResult => exact absurd rfl other
  all_goals exact before

theorem LinkAt.act_drained (ready : m.ready s = true) :
    Micro.clearSpe ∈ ms → Micro.waitNotBusy ∉ ms → (m.act s).bsy = false := by
  intro hm waited
  by_cases waits : m = .waitNotBusy
  · subst waits
    have drained : s.bsy = false := by simpa [Micro.ready] using ready
    exact drained
  have before := inv.drained (List.mem_cons_of_mem _ hm) (by simp [Ne.symm waits, waited])
  cases m
  case put => simp [shapeAt, hm, waited] at shape
  case takeResult => exact absurd rfl other
  all_goals exact before

theorem LinkAt.act_stillDrained : Micro.streamingProfile ∈ ms → Micro.clearSpe ∉ ms → (m.act s).bsy = false := by
  intro hm cleared
  by_cases clears : m = .clearSpe
  · subst clears
    simp [shapeAt] at shape
    exact inv.drained List.mem_cons_self (by simp [shape])
  have before := inv.stillDrained (List.mem_cons_of_mem _ hm) (by simp [Ne.symm clears, cleared])
  cases m
  case put => simp [shapeAt, hm, cleared] at shape
  case takeResult => exact absurd rfl other
  all_goals exact before

theorem LinkAt.act_notCleared : Micro.clearSpe ∈ ms →
    (m.act s).seq.state ≠ .streamingArmed ∧ (m.act s).seq.state ≠ .streaming := by
  intro hm
  have before := inv.notCleared (List.mem_cons_of_mem _ hm)
  cases m
  case windowSet | windowSetMasked => exact ⟨nofun, nofun⟩
  case armSequencer => simp [shapeAt, hm] at shape
  case requestOn => simp [shapeAt_requestOn shape] at hm
  case takeResult => exact absurd rfl other
  all_goals exact before

theorem LinkAt.act_waitedFor (ready : m.ready s = true) :
    Micro.armSequencer ∈ ms → Micro.waitSpeSet ∉ ms → (m.act s).spi.spe = true := by
  intro hm waited
  by_cases waits : m = .waitSpeSet
  · subst waits
    exact ready
  have before := inv.waitedFor (List.mem_cons_of_mem _ hm) (by simp [Ne.symm waits, waited])
  cases m
  case setSpe => rfl
  case clearSpe => simp [shapeAt, hm, waited] at shape
  case takeResult => exact absurd rfl other
  all_goals exact before

theorem LinkAt.act_armedEnabled : (m.act s).seq.state = .streamingArmed → (m.act s).spi.spe = true := by
  have before := inv.armedEnabled
  cases m
  case armSequencer =>
    simp [shapeAt] at shape
    exact fun _ => inv.waitedFor List.mem_cons_self (by simp [shape])
  case clearSpe => exact fun armed => absurd armed (inv.notCleared List.mem_cons_self).1
  case windowSet | windowSetMasked | requestOn => nofun
  case setSpe => exact fun _ => rfl
  case takeResult => exact absurd rfl other
  all_goals exact before

end

theorem LinkAt.act {m : Micro} {ms : List Micro} {s : State} (inv : LinkAt (m :: ms) s) (shape : shapeAt m ms = true)
    (ready : m.ready s = true) (inactive : s.hd = .inactive) : LinkAt ms (m.act s) := by
  by_cases other : m = .takeResult
  · subst other
    exact inv.act_takeResult shape
  exact
    { txFits := inv.act_txFits shape other
      shiftFits := inv.act_shiftFits shape other
      exchange := inv.act_exchange shape other ready
      inExchange := inv.act_inExchange shape other
      windowSet := inv.act_windowSet shape other
      windowSetMasked := inv.act_windowSetMasked shape other
      fillWaits := inv.act_fillWaits shape other
      armed := inv.act_armed shape other
      masked := inv.act_masked shape other inactive
      notFed := inv.act_notFed shape other
      drained := inv.act_drained shape other ready
      stillDrained := inv.act_stillDrained shape other
      notCleared := inv.act_notCleared shape other
      waitedFor := inv.act_waitedFor shape other ready
      armedEnabled := inv.act_armedEnabled shape other }

/-- A later micro-step that makes or finds the sequencer Streaming leaves the link enabled (R195). -/
theorem LinkAt.act_streaming {m : Micro} {ms : List Micro} {s : State} (inv : LinkAt (m :: ms) s)
    (shape : shapeAt m ms = true) (enabled : s.seq.state = .streaming → s.spi.spe = true) :
    (m.act s).seq.state = .streaming → (m.act s).spi.spe = true := by
  cases m
  case requestOn =>
    have armed := inv.armed.2 ⟨List.mem_cons_self, by simp [shapeAt_requestOn shape]⟩
    exact fun _ => inv.armedEnabled armed
  case clearSpe => exact fun q => absurd q (inv.notCleared List.mem_cons_self).2
  case setSpe => exact fun _ => rfl
  case armSequencer | windowSet | windowSetMasked => nofun
  case takeResult =>
    obtain ⟨v, tr, e⟩ := Micro.act_takeResult s
    rw [e]
    exact enabled
  all_goals exact enabled

/-! ### µ1 (R160 to R166, R193, R195, R196) -/

/-- Before µ1 nothing is still to come: frames fit, an empty link in CommandMode, and no fill is armed. -/
theorem LinkAt.quiet {s : State} (inv : LinkAt [] s) (command : s.spi.profile = .command) : s.bsy = false ∧ s.rxne = false :=
  inv.exchange command

theorem LinkAt.unarmed {s : State} (inv : LinkAt [] s) : s.seq.state ≠ .streamingArmed := fun armed =>
  nomatch (inv.armed.1 armed).1

/-- A list of plain micro-steps without a profile write makes no claim of its own. -/
theorem LinkAt.of_nil {s u : State} {ms : List Micro} (inv : LinkAt [] s) (plain : ∀ m ∈ ms, m.plain = true)
    (same : Micro.streamingProfile ∉ ms) (txBuf : u.spi.txBuf = s.spi.txBuf) (shift : u.spi.shift = s.spi.shift)
    (rxBuf : u.spi.rxBuf = s.spi.rxBuf) (profile : u.spi.profile = s.spi.profile) (seq : u.seq.state = s.seq.state) :
    LinkAt ms u := by
  refine .of_plain plain ?_ ?_ (fun command => ?_) (by rw [seq]; exact inv.unarmed) fun h => absurd h same
  · rw [txBuf, profile]; exact inv.txFits
  · rw [shift, profile]; exact inv.shiftFits
  · rw [State.bsy, State.rxne, txBuf, shift, rxBuf]
    exact inv.quiet (profile ▸ command)

/-- What the exclusion check leaves (R190). -/
theorem exclusion_eq_false {s : State} (h : (exclusion s).1 = false) :
    s.seq.state ≠ .streamingArmed ∧ s.seq.state ≠ .streaming := by
  simpa [exclusion] using h

theorem windowBytes_all_ofWindow (w : Window) : (windowBytes w).all Micro.ofWindow = true := rfl

theorem not_mem_windowBytes {w : Window} {m : Micro} (out : m.ofWindow = false) : m ∉ windowBytes w := fun hm =>
  nomatch out.symm.trans (List.all_eq_true.1 (windowBytes_all_ofWindow w) m hm)

@[simp] theorem windowBytes_without_fill (w : Window) :
    Micro.windowSet ∉ windowBytes w ∧ Micro.windowSetMasked ∉ windowBytes w ∧ Micro.armSequencer ∉ windowBytes w ∧
    Micro.requestOn ∉ windowBytes w ∧ Micro.restoreMask ∉ windowBytes w ∧ Micro.clearSpe ∉ windowBytes w ∧
    Micro.streamingProfile ∉ windowBytes w := by
  refine ⟨?_, ?_, ?_, ?_, ?_, ?_, ?_⟩ <;> exact not_mem_windowBytes rfl

/-- SPI.XCHG's µ1 begins an exchange (R165). -/
theorem LinkAt.begin_exchange {s : State} (inv : LinkAt [] s) (b : Byte) (pass : ∀ c ∈ spiXchgChecks s, c.1 = false) :
    LinkAt [.waitRx, .takeResult] (s.putTx (.f8 b)) := by
  simp only [spiXchgChecks, List.forall_mem_cons, decide_eq_false_iff_not, not_not, Bool.not_eq_eq_eq_not, Bool.not_false]
    at pass
  obtain ⟨excluded, command, on, -, -⟩ := pass
  obtain ⟨unarmed, still⟩ := exclusion_eq_false excluded
  obtain ⟨empty, unread⟩ := inv.quiet command
  have noRx : s.spi.rxBuf = none := by simpa [State.rxne] using unread
  exact
    { txFits := by rintro f ⟨⟩; exact command
      shiftFits := inv.shiftFits
      exchange := fun _ => .inl ⟨rfl, (s.bsy_eq_false_iff.1 empty).2, noRx⟩
      inExchange := fun _ _ _ => ⟨command, on, unarmed, still⟩
      windowSet := by simp
      windowSetMasked := by simp
      fillWaits := by simp
      armed := iff_of_false unarmed (by simp)
      masked := by simp
      notFed := by simp
      drained := by simp
      stillDrained := by simp
      notCleared := by simp
      waitedFor := by simp
      armedEnabled := fun armed => absurd armed unarmed }

/-- SPI.DISABLE's µ1 begins the disable sequence of a link that no stream feeds (R163). -/
theorem LinkAt.begin_disable {s : State} (inv : LinkAt [] s) (excluded : (exclusion s).1 = false)
    (notFed : s.dma.state ≠ .running) : LinkAt disableSeq s :=
  { txFits := inv.txFits
    shiftFits := inv.shiftFits
    exchange := inv.quiet
    inExchange := by simp [disableSeq, awaitsByte]
    windowSet := by simp [disableSeq]
    windowSetMasked := by simp [disableSeq]
    fillWaits := by simp [disableSeq]
    armed := iff_of_false inv.unarmed (by simp [disableSeq])
    masked := by simp [disableSeq]
    notFed := fun _ => notFed
    drained := by simp [disableSeq]
    stillDrained := by simp [disableSeq]
    notCleared := fun _ => exclusion_eq_false excluded
    waitedFor := by simp [disableSeq]
    armedEnabled := fun armed => absurd armed inv.unarmed }

/-- SEQ.WINDOW's µ1 begins the window bytes, in Idle or WindowSet (R193). -/
theorem LinkAt.begin_window {s : State} (inv : LinkAt [] s) (w : Window) (pass : ∀ c ∈ windowLinkChecks s, c.1 = false)
    (before : s.seq.state = .idle ∨ s.seq.state = .windowSet) : LinkAt (windowBytes w ++ [.windowSet]) (s.openWindow w) := by
  simp only [windowLinkChecks, List.forall_mem_cons, decide_eq_false_iff_not, not_not, Bool.not_eq_eq_eq_not, Bool.not_false]
    at pass
  obtain ⟨command, on, -, -⟩ := pass
  have still : s.seq.state ≠ .streaming := by rcases before with q | q <;> simp [q]
  exact
    { txFits := inv.txFits
      shiftFits := inv.shiftFits
      exchange := inv.quiet
      inExchange := fun _ _ _ => ⟨command, on, inv.unarmed, still⟩
      windowSet := fun _ => before
      windowSetMasked := by simp
      fillWaits := by simp
      armed := iff_of_false inv.unarmed (by simp)
      masked := by simp
      notFed := by simp
      drained := by simp
      stillDrained := by simp
      notCleared := by simp
      waitedFor := by simp
      armedEnabled := fun armed => absurd armed inv.unarmed }

/-- SEQ.FILL's µ1 sets the mask and begins the fill of a stream that is off (R195). -/
theorem LinkAt.begin_fill {s : State} (inv : LinkAt [] s) (buf : Word) (before : s.seq.state = .windowSet)
    (notFed : s.dma.state ≠ .running) (inactive : s.hd = .inactive) : LinkAt (fillSteps buf) s.saveAndMask :=
  { txFits := inv.txFits
    shiftFits := inv.shiftFits
    exchange := inv.quiet
    inExchange := by simp [fillSteps, disableSeq, enableSeq, awaitsByte]
    windowSet := by simp [fillSteps, disableSeq, enableSeq]
    windowSetMasked := by simp [fillSteps, disableSeq, enableSeq]
    fillWaits := fun _ _ => before
    armed := iff_of_false inv.unarmed (by simp [fillSteps])
    masked := fun _ _ => ⟨rfl, inactive⟩
    notFed := fun _ => notFed
    drained := by simp [fillSteps, disableSeq]
    stillDrained := by simp [fillSteps, disableSeq]
    notCleared := fun _ => ⟨inv.unarmed, by simp [before]⟩
    waitedFor := by simp [fillSteps, enableSeq]
    armedEnabled := fun armed => absurd armed inv.unarmed }

/-- µ1 of SEQ.FILLWIN and SEQ.FILLCTR begins the window bytes, in Idle (R196, R198). -/
theorem LinkAt.begin_fillWindow {s : State} (inv : LinkAt [] s) (engine : EngineInv s) (w : Window) (buf : Word)
    (idle : (idleCheck s).1 = false) (pass : ∀ c ∈ fillWindowChecks s w buf, c.1 = false) :
    LinkAt (fillWindowSteps w buf) (s.openWindow w) := by
  have before : s.seq.state = .idle := by simpa [idleCheck] using idle
  simp only [fillWindowChecks, windowLinkChecks, notReadyCheck, List.cons_append, List.nil_append, List.forall_mem_cons,
    decide_eq_false_iff_not, not_not, Bool.not_eq_eq_eq_not, Bool.not_false, Bool.or_eq_false_iff] at pass
  obtain ⟨-, command, on, -, ⟨off, -⟩, -⟩ := pass
  have notFed : s.dma.state ≠ .running := fun running => by simp [engine.enRunning.2 running] at off
  exact
    { txFits := inv.txFits
      shiftFits := inv.shiftFits
      exchange := inv.quiet
      inExchange := fun _ _ _ => ⟨command, on, inv.unarmed, by simp [before]⟩
      windowSet := by simp [fillWindowSteps, fillSteps, disableSeq, enableSeq]
      windowSetMasked := fun _ => before
      fillWaits := fun _ unmasked => absurd (by simp [fillWindowSteps]) unmasked
      armed := iff_of_false inv.unarmed (by simp [fillWindowSteps, fillSteps])
      masked := fun _ unmasked => absurd (by simp [fillWindowSteps]) unmasked
      notFed := fun _ => notFed
      drained := fun _ waited => absurd (by simp [fillWindowSteps, fillSteps, disableSeq]) waited
      stillDrained := fun _ cleared => absurd (by simp [fillWindowSteps, fillSteps, disableSeq]) cleared
      notCleared := fun _ => ⟨inv.unarmed, by simp [before]⟩
      waitedFor := fun _ waited => absurd (by simp [fillWindowSteps, fillSteps, enableSeq]) waited
      armedEnabled := fun armed => absurd armed inv.unarmed }

theorem LinkAt.startEffect {i : Instr} {s : State} (inv : LinkAt [] s) (engine : EngineInv s)
    (inactive : s.hd = .inactive) (pass : ∀ c ∈ startChecks i s, c.1 = false) :
    LinkAt i.laterSteps (startEffect i s) := by
  cases i
  case spiConfig mode =>
    simp only [startChecks, spiConfigChecks, List.forall_mem_cons] at pass
    obtain ⟨-, -, drained, -⟩ := pass
    obtain ⟨noTx, noShift⟩ := s.bsy_eq_false_iff.1 drained
    exact .of_plain nofun (fun f full => nomatch noTx.symm.trans full) (fun x full => nomatch noShift.symm.trans full)
      (fun _ => ⟨drained, rfl⟩) inv.unarmed nofun
  case spiXchg b => exact inv.begin_exchange b pass
  case spiDisable =>
    simp only [startChecks, List.forall_mem_cons, decide_eq_false_iff_not] at pass
    exact inv.begin_disable pass.1 pass.2.1
  case seqWindow w =>
    simp only [startChecks, seqWindowChecks, List.forall_mem_append, List.forall_mem_cons, decide_eq_false_iff_not] at pass
    refine inv.begin_window w pass.2 ?_
    by_contra other
    exact pass.1.1 (not_or.1 other)
  case seqFill buf =>
    simp only [startChecks, seqFillChecks, notReadyCheck, List.forall_mem_append, List.forall_mem_cons,
      decide_eq_false_iff_not, not_not, Bool.or_eq_false_iff] at pass
    obtain ⟨⟨before, ⟨off, -⟩, -⟩, -⟩ := pass
    exact inv.begin_fill buf before (fun running => by simp [engine.enRunning.2 running] at off) inactive
  case seqFillWin w buf =>
    simp only [startChecks, List.forall_mem_append, List.forall_mem_cons] at pass
    exact inv.begin_fillWindow engine w buf pass.1.1 pass.2
  case seqFillCtr w h buf =>
    simp only [startChecks, List.forall_mem_append, List.forall_mem_cons] at pass
    exact inv.begin_fillWindow engine _ buf pass.1.1 pass.2
  case ctlWaitReady | ctlWaitIdle | dmaDisable | spiEnable =>
    exact inv.of_nil (by simp [Instr.laterSteps, Micro.plain]) (by simp [Instr.laterSteps]) rfl rfl rfl rfl rfl
  case irqEnable =>
    simp only [Machine.startEffect, State.enableSource]
    split <;> exact inv.of_nil nofun nofun rfl rfl rfl rfl rfl
  case dmaConfig =>
    simp only [Machine.startEffect]
    split <;> exact inv.of_nil nofun nofun rfl rfl rfl rfl rfl
  case lineSet l | lineClear l => cases l <;> exact inv.of_nil nofun nofun rfl rfl rfl rfl rfl
  all_goals exact inv.of_nil nofun nofun rfl rfl rfl rfl rfl

/-! ### The foreground's step -/

/-- The clauses on the link read the foreground's place only through the list. -/
theorem LinkAt.advance {ms : List Micro} {s : State} (inv : LinkAt ms s) (len : Nat) (last : Bool) :
    LinkAt ms (s.advance len last) := { inv with }

theorem BlockInv.of_start {i : Instr} {s u : State} {len : Nat} {last : Bool} (inv : BlockInv s) (engine : EngineInv s)
    (inactive : s.hd = .inactive) (pass : ∀ c ∈ startChecks i s, c.1 = false)
    (h : u = (Machine.startEffect i s).advance len last) (before : s.pending = []) (after : u.pending = i.laterSteps)
    (outside : ¬ s.inHandshake ∧ ¬ u.inHandshake) : BlockInv u := by
  have link := inv.link
  rw [before] at link
  obtain ⟨-, -, -, -, hd⟩ := startEffect_keeps i s
  refine ⟨?_, .of_inactive ?_ outside.2 fun streaming => ?_⟩
  · rw [after, h]
    exact (link.startEffect engine inactive pass).advance len last
  · rw [h, State.advance_hd, hd, inactive]
  · rw [h, State.advance_seq, startEffect_seq] at streaming
    rw [h, State.advance_spi]
    rcases startEffect_spe i s with same | on
    · rw [same]
      exact inv.teardown.enabled_of_inactive inactive outside.1 streaming
    · exact on

theorem BlockInv.of_later {m : Micro} {s u : State} {len : Nat} {last : Bool} (inv : BlockInv s)
    (inactive : s.hd = .inactive) (ready : m.ready s = true) (h : u = (m.act s).advance len last)
    (pending : s.pending = m :: u.pending) (outside : ¬ s.inHandshake ∧ ¬ u.inHandshake) : BlockInv u := by
  have shape := State.shapeAt_pending pending
  have link := inv.link
  rw [pending] at link
  obtain ⟨-, -, -, -, -, hd, -⟩ := m.act_keeps s
  refine ⟨?_, .of_inactive ?_ outside.2 fun streaming => ?_⟩
  · have acted := (link.act shape ready inactive).advance len last
    rwa [← h] at acted
  · rw [h, State.advance_hd, hd, inactive]
  · rw [h, State.advance_seq] at streaming
    rw [h, State.advance_spi]
    exact link.act_streaming shape (inv.teardown.enabled_of_inactive inactive outside.1) streaming

/-- Inside SEQ.HANDSHAKE the teardown is the foreground's (R199). -/
theorem TeardownInv.of_handshake {s : State} (inactive : s.hd = .inactive) (masked : s.irq.masked = true)
    (at_ : 3 ≤ s.fg.k → TeardownAt s (s.fg.k - 2) s.fg.status) (inside : s.inHandshake)
    (enabled : EnabledAt s (s.fg.k - 2)) : TeardownInv s where
  handler _ _ _ active := by rw [inactive] at active; cases active
  handshake _ := ⟨inactive, masked, at_⟩
  streaming q := (enabled q).imp_right fun between => .inr ⟨inside, by omega⟩

theorem BlockInv.of_handshake {s u : State} (inv : BlockInv s) (engine : EngineInv s) (inactive : s.hd = .inactive)
    (fetch : s.fetch = .command .seqHandshake) (h : execSeqHandshake s = .next u) (before : s.pending = [])
    (after : u.pending = []) : BlockInv u := by
  have link := inv.link
  rw [before] at link
  have enabled : EnabledAt s (s.fg.k - 2) := fun q => by
    rcases inv.teardown.streaming q with on | ⟨_, _, _, active, -⟩ | ⟨-, low, high⟩
    · exact .inl on
    · rw [inactive] at active; cases active
    · exact .inr ⟨by omega, by omega⟩
  have on (out : s.fg.k < 8 ∨ 10 < s.fg.k) (q : s.seq.state = .streaming) : s.spi.spe = true :=
    (enabled q).resolve_right (by omega)
  rcases handshake_next h with rfl | ⟨first, rfl⟩ | ⟨second, rfl⟩ | ⟨last, rfl⟩ | ⟨j', v, low, -, step, rfl⟩
  · exact inv
  · refine ⟨by rw [after]; exact link.of_nil nofun nofun rfl rfl rfl rfl rfl, ?_⟩
    have next : (s.saveAndMask.advance 1 false).fg.k = 2 := by simp [first]
    refine .of_handshake inactive rfl (fun started => by omega) ⟨(State.fetch_congr rfl rfl).trans fetch, by omega⟩ ?_
    exact fun q => .inl (on (by omega) q)
  · obtain ⟨-, masked, -⟩ := inv.teardown.handshake ⟨fetch, by omega⟩
    refine ⟨by rw [after]; exact link.of_nil nofun nofun rfl rfl rfl rfl rfl, ?_⟩
    refine .of_handshake inactive masked (fun _ => .of_outside (by simp [second]) fun tc => ?_)
      ⟨(State.fetch_congr rfl rfl).trans fetch, by simp [second]⟩ fun q => .inl (on (by omega) q)
    have read : hasFlag (s.dma.sr &&& s.dma.ie) .tc = true := tc
    rw [hasFlag_and, Bool.and_eq_true] at read
    exact engine.completeFlag read.1
  · refine ⟨by rw [after]; exact link.of_nil nofun nofun rfl rfl rfl rfl rfl, ?_⟩
    exact .of_inactive inactive (fun inside => absurd inside.2 (by simp)) (on (by omega))
  · obtain ⟨-, masked, at_⟩ := inv.teardown.handshake ⟨fetch, by omega⟩
    obtain ⟨-, fg, irq, hd, -, -, -, prog, -⟩ := teardownStep_keeps step
    have next := teardownStep_next step
    have bounds := next.bounds
    have advanced := (at_ low).next next
    have stays : EnabledAt v j' := enabled.next next
    refine ⟨by rw [after]; exact { link.teardownStep (at_ low) nofun next with }, ?_⟩
    refine .of_handshake (hd.trans inactive) (by rw [← masked]; exact congrArg Irq.masked irq) (fun _ => ?_)
      ⟨(State.fetch_congr prog (by rw [fg])).trans fetch, by show 2 ≤ j' + 2; omega⟩ ?_
    · have status : v.fg.status = s.fg.status := by rw [fg]
      show TeardownAt _ (j' + 2 - 2) v.fg.status
      rw [status]
      exact { advanced with }
    · exact stays

theorem BlockInv.foregroundStep {s u : State} (inv : BlockInv s) (engine : EngineInv s) (h : foregroundStep s = .next u) :
    BlockInv u := by
  cases foregroundStep_fgNext h with
  | hold h => exact h ▸ inv
  | start i inactive fetch hs first pass len last h before after outside =>
    exact inv.of_start engine inactive pass h before after outside
  | later m inactive ready len last h pending outside => exact inv.of_later inactive ready h pending outside
  | halt first h =>
    rw [h]
    exact inv.congr ⟨rfl, rfl, rfl, rfl, rfl, rfl, rfl, rfl, rfl, rfl⟩ ⟨rfl, rfl, rfl, rfl⟩ (.inl rfl)
  | handshake inactive fetch h before after => exact inv.of_handshake engine inactive fetch h before after

/-! ### The step -/

theorem BlockInv.turnStep {τ : Turn} {s u : State} (inv : BlockInv s) (engine : EngineInv s)
    (h : turnStep τ s = .next u) : BlockInv u := by
  cases τ
  case fg => exact inv.foregroundStep engine h
  case deHandoff => exact inv.handoffStep engine h
  case hd => exact Host.Outcome.next.inj h ▸ inv.handlerStep
  case ie => exact Host.Outcome.next.inj h ▸ inv.entryStep engine
  case deFetch => exact Host.Outcome.next.inj h ▸ inv.fetchStep
  case sh => exact Host.Outcome.next.inj h ▸ inv.shifterStep
  case env => exact Host.Outcome.next.inj h ▸ inv.errorStep

theorem BlockInv.endOfStep {s : State} (inv : BlockInv s) : BlockInv s.endOfStep := by
  obtain ⟨b, dma⟩ := s.endOfStep_dma
  exact inv.congr (by constructor <;> simp) (by constructor <;> simp) (.inl (by rw [dma]))

/-- The edge rule leaves GPREV at the gate (R168). -/
theorem BaseInv.endOfStep {s : State} (memory : Memory.wf s.mem = true) : BaseInv s.endOfStep := by
  obtain ⟨b, dma⟩ := s.endOfStep_dma
  exact ⟨by rw [State.endOfStep_mem]; exact memory, by simp [State.gate, State.txe, State.endOfStep_spi]⟩

theorem Inv.congr {s u : State} (inv : Inv s) (h : u = { s with trace := u.trace, fault := u.fault, refused := u.refused, inp := u.inp }) :
    Inv u := by
  obtain ⟨base, engine, block⟩ := (inv_iff s).1 inv
  rw [h]
  exact (inv_iff _).2 ⟨⟨base.memory, base.gate⟩, engine.of_dma_eq rfl rfl rfl rfl,
    block.congr ⟨rfl, rfl, rfl, rfl, rfl, rfl, rfl, rfl, rfl, rfl⟩ ⟨rfl, rfl, rfl, rfl⟩ (.inl rfl)⟩

/-- Taking the turn changes nothing but the inputs. -/
theorem Inv.takeTurn {s : State} (inv : Inv s) : Inv s.takeTurn.2 := inv.congr rfl

theorem Inv.step {s t : State} (inv : Inv s) (h : step s = .next t) : Inv t := by
  obtain ⟨-, -, rfl⟩ := step_next h
  have taken := inv.takeTurn
  rcases liveStep_cases s with ⟨u, hu, e⟩ | ⟨f, -, e⟩ | ⟨r, -, e⟩ <;> rw [e]
  · obtain ⟨base, engine, block⟩ := (inv_iff _).1 taken
    exact (inv_iff _).2 ⟨.endOfStep (turnStep_keeps_memory_form base.memory hu), (engine.turnStep hu).endOfStep,
      (block.turnStep engine hu).endOfStep⟩
  · exact taken.congr rfl
  · exact taken.congr rfl

end Sys2Proof.Machine

namespace Sys2Proof.Proofs

open Sys2Proof.Machine

/-- Settles O57: `Inv.step`, part by part and agent by agent. -/
theorem invariantKept : Obligations.InvariantKept := by
  unfold Obligations.InvariantKept
  exact fun _ _ inv h => inv.step h

end Sys2Proof.Proofs
end

section
/-! PROOF. Who moves the sequencer, who writes the profile during a fill, and that an exchange finds the transmit buffer empty
(spec/42_sequencer.md R202, spec/60_exceptions.md R260, spec/41_spi.md R165, R169). -/

namespace Sys2Proof.Machine

/-! ### Agents that leave the sequencer and the profile alone -/

/-- IE, DE, SH and ENV write neither the sequencer nor the profile. -/
theorem turnStep_seq_profile {τ : Turn} {s u : State} (h : turnStep τ s = .next u) (fg : τ ≠ .fg) (hd : τ ≠ .hd) :
    u.seq = s.seq ∧ u.spi.profile = s.spi.profile := by
  cases τ
  case fg => exact absurd rfl fg
  case hd => exact absurd rfl hd
  case ie =>
    obtain rfl := Host.Outcome.next.inj h
    unfold entryStep
    split <;> exact ⟨rfl, rfl⟩
  case deFetch =>
    obtain rfl := Host.Outcome.next.inj h
    unfold fetchStep State.fetchElement
    simp only
    split
    · split <;> exact ⟨rfl, rfl⟩
    · exact ⟨rfl, rfl⟩
  case deHandoff =>
    by_cases on : s.handoffEnabled = true
    · have handed := (handoffStep_of_enabled on).symm.trans h
      split at handed
      · cases handed
      · rw [← Host.Outcome.next.inj handed, handElement_complete_eq]
        exact ⟨rfl, rfl⟩
    · obtain rfl := Host.Outcome.next.inj ((handoffStep_of_not_enabled on).symm.trans h)
      exact ⟨rfl, rfl⟩
  case sh =>
    obtain rfl := Host.Outcome.next.inj h
    have keeps := shifterStep_keeps s
    refine ⟨by simp [keeps], ?_⟩
    unfold shifterStep
    split
    · split
      · simp only [State.emitFrame, State.receive]
        split <;> simp
      · rfl
      · rfl
    · rfl
  case env =>
    obtain rfl := Host.Outcome.next.inj h
    unfold errorStep
    split
    · simp only
      split <;> simp
    · exact ⟨rfl, rfl⟩

/-! ### The sequencer (R202) -/

/-- Four of the later micro-steps move the sequencer. -/
theorem Micro.act_seq (m : Micro) (s : State) (moved : (m.act s).seq.state ≠ s.seq.state) :
    m = .armSequencer ∨ m = .requestOn ∨ m = .windowSet ∨ m = .windowSetMasked := by
  cases m
  case armSequencer => exact .inl rfl
  case requestOn => exact .inr (.inl rfl)
  case windowSet => exact .inr (.inr (.inl rfl))
  case windowSetMasked => exact .inr (.inr (.inr rfl))
  case takeResult =>
    obtain ⟨v, tr, e⟩ := Micro.act_takeResult s
    rw [e] at moved
    exact absurd rfl moved
  all_goals exact absurd rfl moved

/-- The foreground's part of a fill moves the sequencer one state on (R193, R195, R196). -/
theorem LinkAt.act_moves {m : Micro} {ms : List Micro} {s : State} (inv : LinkAt (m :: ms) s)
    (shape : shapeAt m ms = true) (moved : (m.act s).seq.state ≠ s.seq.state) :
    (s.seq.state = .idle ∧ (m.act s).seq.state = .windowSet) ∨
    (s.seq.state = .windowSet ∧ (m.act s).seq.state = .streamingArmed) ∨
    (s.seq.state = .streamingArmed ∧ (m.act s).seq.state = .streaming) := by
  rcases m.act_seq s moved with rfl | rfl | rfl | rfl
  · simp [shapeAt] at shape
    exact .inr (.inl ⟨inv.fillWaits List.mem_cons_self (by simp [shape]), rfl⟩)
  · exact .inr (.inr ⟨inv.armed.2 ⟨List.mem_cons_self, by simp [shapeAt_requestOn shape]⟩, rfl⟩)
  · rcases inv.windowSet List.mem_cons_self with idle | set
    · exact .inl ⟨idle, rfl⟩
    · exact absurd set.symm moved
  · exact .inl ⟨inv.windowSetMasked List.mem_cons_self, rfl⟩

/-- A teardown step that moves the sequencer is H9, from Streaming to Idle. -/
theorem TeardownAt.moves {j j' : Nat} {status : BitVec 5} {r : Half} {s v : State} (at_ : TeardownAt s j status)
    (h : teardownStep j status r s = some (j', v)) (moved : v.seq.state ≠ s.seq.state) :
    j = 9 ∧ s.seq.state = .streaming ∧ v.seq.state = .idle := by
  obtain ⟨rfl, idle⟩ := teardownStep_seq h moved
  exact ⟨rfl, (at_.guarded (by decide) (by decide)).2, idle⟩

/-- The transitions of R202 with the agent that makes each, for the turn of one agent. -/
theorem BlockInv.turnStep_moves {τ : Turn} {s u : State} (inv : BlockInv s) (h : Machine.turnStep τ s = .next u)
    (moved : u.seq.state ≠ s.seq.state) :
    (τ = .fg ∧ s.seq.state = .idle ∧ u.seq.state = .windowSet) ∨
    (τ = .fg ∧ s.seq.state = .windowSet ∧ u.seq.state = .streamingArmed) ∨
    (τ = .fg ∧ s.seq.state = .streamingArmed ∧ u.seq.state = .streaming) ∨
    (s.seq.state = .streaming ∧ u.seq.state = .idle ∧
      ((τ = .hd ∧ ∃ status r, s.hd = .active 9 status r) ∨
        (τ = .fg ∧ s.fetch = .command .seqHandshake ∧ s.fg.k = 11))) := by
  by_cases hd : τ = .hd
  · subst hd
    obtain rfl := Host.Outcome.next.inj h
    rcases handlerStep_cases s with e | ⟨status, r, active, e⟩ | ⟨j, status, r, j', v, active, -, step, e⟩ <;> rw [e] at moved ⊢
    · exact absurd rfl moved
    · exact absurd rfl moved
    · obtain ⟨-, -, at_⟩ := inv.teardown.handler j status r active
      obtain ⟨rfl, streaming, idle⟩ := at_.moves step moved
      exact .inr (.inr (.inr ⟨streaming, idle, .inl ⟨rfl, status, r, active⟩⟩))
  by_cases fg : τ = .fg
  · subst fg
    cases foregroundStep_fgNext h with
    | hold e => exact absurd (by rw [e]) moved
    | start i inactive fetch hs first pass len last e before after outside =>
      rw [e, State.advance_seq, startEffect_seq] at moved
      exact absurd rfl moved
    | later m inactive ready len last e pending outside =>
      have link := inv.link
      rw [pending] at link
      have seq : u.seq = (m.act s).seq := by rw [e, State.advance_seq]
      rw [seq] at moved ⊢
      rcases link.act_moves (State.shapeAt_pending pending) moved with on | on | on
      · exact .inl ⟨rfl, on⟩
      · exact .inr (.inl ⟨rfl, on⟩)
      · exact .inr (.inr (.inl ⟨rfl, on⟩))
    | halt first e => exact absurd (by rw [e]; rfl) moved
    | handshake inactive fetch e before after =>
      rcases handshake_next e with rfl | ⟨-, rfl⟩ | ⟨-, rfl⟩ | ⟨-, rfl⟩ | ⟨j', v, low, -, step, rfl⟩
      case inr.inr.inr.inr =>
        obtain ⟨-, -, at_⟩ := inv.teardown.handshake ⟨fetch, by omega⟩
        obtain ⟨last, streaming, idle⟩ := (at_ low).moves step moved
        exact .inr (.inr (.inr ⟨streaming, idle, .inr ⟨rfl, fetch, by omega⟩⟩))
      all_goals exact absurd rfl moved
  · rw [(turnStep_seq_profile h fg hd).1] at moved
    exact absurd rfl moved

/-! ### The profile during a fill (R260) -/

/-- The one later micro-step that writes the profile makes it StreamingMode (R195). -/
theorem Micro.act_profile (m : Micro) (s : State) :
    (m.act s).spi.profile = s.spi.profile ∨ (m.act s).spi.profile = .streaming := by
  cases m
  case streamingProfile => exact .inr rfl
  case takeResult =>
    obtain ⟨v, tr, e⟩ := Micro.act_takeResult s
    exact .inl (by rw [e])
  all_goals exact .inl rfl

/-- The profile goes to CommandMode during a fill in H7 alone, whoever runs the teardown. -/
theorem turnStep_to_command {τ : Turn} {s u : State} (h : turnStep τ s = .next u) (fill : s.fillUnderWay)
    (before : s.spi.profile ≠ .command) (after : u.spi.profile = .command) :
    (τ = .hd ∧ ∃ status r, s.hd = .active 7 status r) ∨
    (τ = .fg ∧ s.fetch = .command .seqHandshake ∧ s.fg.k = 9) := by
  have moved : u.spi.profile ≠ s.spi.profile := by rw [after]; exact before.symm
  by_cases hd : τ = .hd
  · subst hd
    obtain rfl := Host.Outcome.next.inj h
    rcases handlerStep_cases s with e | ⟨status, r, active, e⟩ | ⟨j, status, r, j', v, active, -, step, e⟩ <;> rw [e] at moved
    · exact absurd rfl moved
    · exact absurd rfl moved
    · obtain rfl := teardownStep_profile step moved
      exact .inl ⟨rfl, status, r, active⟩
  by_cases fg : τ = .fg
  · subst fg
    cases foregroundStep_fgNext h with
    | hold e => exact absurd (by rw [e]) moved
    | start i inactive fetch hs first pass len last e before after outside =>
      rw [e, State.advance_spi] at moved
      obtain ⟨mode, rfl⟩ := startEffect_profile moved
      obtain ⟨unarmed, still⟩ := exclusion_eq_false (pass _ (by simp [startChecks, spiConfigChecks] : exclusion s ∈ _))
      exact absurd fill (not_or.2 ⟨unarmed, still⟩)
    | later m inactive ready len last e pending outside =>
      have spi : u.spi = (m.act s).spi := by rw [e, State.advance_spi]
      rw [spi] at moved after
      rcases m.act_profile s with same | streaming
      · exact absurd same moved
      · simp [streaming] at after
    | halt first e => exact absurd (by rw [e]; rfl) moved
    | handshake inactive fetch e _ _ =>
      rcases handshake_next e with rfl | ⟨-, rfl⟩ | ⟨-, rfl⟩ | ⟨-, rfl⟩ | ⟨j', v, low, -, step, rfl⟩
      case inr.inr.inr.inr =>
        have seven := teardownStep_profile step moved
        exact .inr ⟨rfl, fetch, by omega⟩
      all_goals exact absurd rfl moved
  · exact absurd (turnStep_seq_profile h fg hd).2 moved

/-! ### The transmit buffer at µ1 of an exchange (R165, R193, R196) -/

theorem firstStop_append (as bs : List (Bool × Stop)) : firstStop (as ++ bs) = (firstStop as).or (firstStop bs) := by
  induction as with
  | nil => rfl
  | cons a as ih =>
    obtain ⟨fails, how⟩ := a
    cases fails with
    | true => rfl
    | false => exact ih

/-- A fault of a command is that of a check of its µ1 (R167). -/
theorem firstStop_of_exec_fault {i : Instr} {s : State} {f : Fault} (h : exec i s = .fault f) :
    s.fg.k = 1 ∧ firstStop (startChecks i s) = some (.fault f) := by
  by_cases hs : i = .seqHandshake
  · obtain ⟨t, ht⟩ := execSeqHandshake_goes_on s
    subst hs
    exact nomatch ht.symm.trans h
  match hk : s.fg.k with
  | 0 => exact nomatch (exec_zero hk).symm.trans h
  | 1 =>
    by_cases hh : i = .ctlHalt
    · subst hh
      exact nomatch (exec_halt hk).symm.trans h
    rw [exec_start hk hh hs] at h
    refine ⟨rfl, ?_⟩
    split at h
    · cases h
    · rename_i how stops
      rw [stops]
      cases how with
      | refuse r => cases h
      | fault f' => rw [Host.Outcome.fault.inj h]
  | n + 2 =>
    rw [exec_later hk hs] at h
    split at h
    · cases h
    · split at h <;> cases h

/-- With nothing still to come the link checks of an exchange do not find a full transmit buffer: in CommandMode it is empty, and
another profile is found first. -/
theorem LinkAt.windowLinkChecks_txFull {s : State} (inv : LinkAt [] s) :
    firstStop (windowLinkChecks s) ≠ some (.fault .spiTxFull) := by
  by_cases command : s.spi.profile = .command
  · have empty : s.txe = true := by
      rw [State.txe, (s.bsy_eq_false_iff.1 (inv.quiet command).1).1]
      rfl
    cases on : s.spi.spe <;> simp [windowLinkChecks, firstStop, command, on, empty]
  · simp [windowLinkChecks, firstStop, command]

/-- The check is one of the link checks alone. -/
theorem firstStop_ne_of_parts {as bs cs : List (Bool × Stop)} {how : Stop} (before : ∀ b, (b, how) ∉ as)
    (between : firstStop bs ≠ some how) (after : ∀ b, (b, how) ∉ cs) : firstStop (as ++ bs ++ cs) ≠ some how := by
  rw [firstStop_append, firstStop_append]
  intro stops
  rcases Option.or_eq_some_iff.1 stops with found | ⟨-, found⟩
  · rcases Option.or_eq_some_iff.1 found with found | ⟨-, found⟩
    · exact before _ (mem_of_firstStop found)
    · exact between found
  · exact after _ (mem_of_firstStop found)

theorem LinkAt.startChecks_txFull {s : State} (inv : LinkAt [] s) (i : Instr) :
    firstStop (startChecks i s) ≠ some (.fault .spiTxFull) := by
  have link := inv.windowLinkChecks_txFull
  have fill (w : Window) (buf : Word) (bad : Bool) :
      firstStop ([idleCheck s, (bad, .fault .window)] ++ fillWindowChecks s w buf) ≠ some (.fault .spiTxFull) := by
    have parts := firstStop_ne_of_parts
      (as := [idleCheck s, (bad, .fault .window), (decide (Config.countMax < w.pixelCount), .fault .count)])
      (cs := [notReadyCheck s] ++ bufferChecks s buf (BitVec.ofNat 16 w.pixelCount)) (by simp [idleCheck]) link
      (by simp [notReadyCheck, bufferChecks])
    simpa [fillWindowChecks] using parts
  cases i
  case spiXchg b => exact firstStop_ne_of_parts (as := [exclusion s]) (cs := []) (by simp [exclusion]) link (by simp)
  case seqWindow w =>
    have parts := firstStop_ne_of_parts (cs := [])
      (as := [(decide (s.seq.state ≠ .idle ∧ s.seq.state ≠ .windowSet), .fault .seqState), (!w.valid, .fault .window),
        (decide (Config.countMax < w.pixelCount), .fault .count)]) (by simp) link (by simp)
    simpa [startChecks, seqWindowChecks] using parts
  case seqFillWin w buf => exact fill w buf _
  case seqFillCtr w h buf => exact fill _ buf _
  case dmaConfig =>
    intro stops
    have listed := mem_of_firstStop stops
    simp only [startChecks] at listed
    split at listed <;> simp [dmaConfigChecks, wrongStream, exclusion] at listed
  all_goals
    intro stops
    have listed := mem_of_firstStop stops
    simp [startChecks, memWr16Checks, dmaStartChecks, dmaDisableChecks, spiConfigChecks, seqFillChecks, bufferChecks,
      notReadyCheck, wrongStream, exclusion] at listed

theorem BlockInv.turnStep_txFull {s : State} (inv : BlockInv s) (τ : Turn) : Machine.turnStep τ s ≠ .fault .spiTxFull := by
  intro h
  by_cases fg : τ = .fg
  · subst fg
    have stopped : Machine.foregroundStep s = .fault .spiTxFull := h
    unfold Machine.foregroundStep at stopped
    split at stopped
    · cases stopped
    split at stopped
    · rename_i e _
      cases e <;> cases stopped
    · obtain ⟨first, stops⟩ := firstStop_of_exec_fault stopped
      have link := inv.link
      rw [State.pending_start first] at link
      exact link.startChecks_txFull _ stops
  · rcases turnStep_next_or_width fg s with ⟨t, ht⟩ | ⟨-, width⟩
    · exact nomatch ht.symm.trans h
    · exact nomatch width.symm.trans h

/-- The turn of a step whose sequencer or profile changes was completed, by its agent. -/
theorem step_turn_of_moved {s t : State} (h : step s = .next t) (moved : t.seq ≠ s.seq ∨ t.spi.profile ≠ s.spi.profile) :
    ∃ u, turnStep s.takeTurn.1 s.takeTurn.2 = .next u ∧ t.seq = u.seq ∧ t.spi.profile = u.spi.profile := by
  obtain ⟨-, -, rfl⟩ := step_next h
  rcases liveStep_cases s with ⟨u, hu, e⟩ | ⟨f, -, e⟩ | ⟨r, -, e⟩ <;> rw [e] at moved ⊢
  · exact ⟨u, hu, by simp, by simp⟩
  · exact absurd moved (by simp)
  · exact absurd moved (by simp)

end Sys2Proof.Machine

namespace Sys2Proof.Proofs

open Sys2Proof.Machine

/-- Settles O49: `BlockInv.turnStep_moves` for the turn that the step takes. -/
theorem sequencerTransitions : Obligations.SequencerTransitions := by
  unfold Obligations.SequencerTransitions
  intro s t inv h moved
  obtain ⟨-, -, block⟩ := (inv_iff _).1 inv.takeTurn
  obtain ⟨u, hu, seq, -⟩ := step_turn_of_moved h (.inl fun same => moved (by rw [same]))
  rw [seq] at moved ⊢
  exact block.turnStep_moves hu moved

/-- Settles O50: `turnStep_to_command` for the turn that the step takes. -/
theorem singleWriterOfProfile : Obligations.SingleWriterOfProfile := by
  unfold Obligations.SingleWriterOfProfile
  intro s t _ h fill before after
  obtain ⟨u, hu, -, profile⟩ := step_turn_of_moved h (.inr (by rw [after]; exact before.symm))
  rw [profile] at after
  exact turnStep_to_command (s := s.takeTurn.2) hu fill before after

/-- Settles O58: `LinkAt.startChecks_txFull` at µ1 of every command; no other agent raises the fault. -/
theorem txFullIsDead : Obligations.TxFullIsDead := by
  unfold Obligations.TxFullIsDead
  exact fun s inv turn => ((inv_iff s).1 inv).2.2.turnStep_txFull turn

end Sys2Proof.Proofs
end

section
/-! PROOF. A lost request stays lost (spec/70_reset_and_hazards.md R287): with the gate high and the request latch clear no agent
hands an element, writes the profile or fills the transmit buffer. -/

namespace Sys2Proof.Machine

/-- `u` has the counts of `s`, no request, the gate high, and the stream as it was or stopped by an error. -/
structure StaysLost (s u : State) : Prop where
  ndt : u.dma.ndt = s.dma.ndt
  handed : u.dma.handed = s.dma.handed
  req : u.dma.req = s.dma.req
  gate : u.gate = s.gate
  gPrev : u.spi.gPrev = s.spi.gPrev
  shift : s.spi.shift = none → u.spi.shift = none
  state : u.dma.state = s.dma.state ∨ (s.dma.state = .running ∧ u.dma.state = .aborted)

theorem StaysLost.of_eq {s u : State} (spi : u.spi = s.spi) (dma : u.dma = s.dma) : StaysLost s u where
  ndt := by rw [dma]
  handed := by rw [dma]
  req := by rw [dma]
  gate := by simp only [State.gate, State.txe, spi]
  gPrev := by rw [spi]
  shift := by rw [spi]; exact id
  state := .inl (by rw [dma])

/-- Flags and elements in the FIFO are no part of it. -/
theorem StaysLost.of_spi {s u : State} (spi : u.spi = s.spi) (ndt : u.dma.ndt = s.dma.ndt)
    (handed : u.dma.handed = s.dma.handed) (req : u.dma.req = s.dma.req)
    (state : u.dma.state = s.dma.state ∨ (s.dma.state = .running ∧ u.dma.state = .aborted)) : StaysLost s u :=
  { StaysLost.of_eq (u := { u with dma := s.dma }) spi rfl with ndt, handed, req, state }

/-- The gate is high in an enabled, requesting link in StreamingMode with an empty transmit buffer (R36). -/
theorem State.gate_iff (s : State) :
    s.gate = true ↔
      s.spi.spe = true ∧ s.spi.txDmaEn = true ∧ s.spi.txBuf = none ∧ s.spi.profile = .streaming := by
  simp [State.gate, State.txe, and_assoc]

/-! ### The agents but the foreground -/

/-- Without a completed stream a teardown is at H1, H2 or H10. -/
theorem StaysLost.teardownStep {j j' : Nat} {status : BitVec 5} {r : Half} {s v : State} (at_ : TeardownAt s j status)
    (incomplete : s.dma.state ≠ .complete) (h : teardownStep j status r s = some (j', v)) : StaysLost s v := by
  obtain ⟨sr, dma, -⟩ := teardownStep_dma h
  have out : ¬ (3 ≤ j ∧ j ≤ 9) := fun ⟨low, high⟩ => incomplete (at_.complete (at_.guarded low high).1)
  have spi : v.spi = s.spi := by
    cases teardownStep_next h
    case h1 => rw [serviceErrors_eq]
    case h2Guarded | h2Unguarded => rw [clearCompletion_eq]
    case h10 => rfl
    all_goals exact absurd (by decide) out
  exact .of_spi spi (by rw [dma]) (by rw [dma]) (by rw [dma]) (.inl (by rw [dma]))

theorem StaysLost.handlerStep {s : State} (inv : BlockInv s) (incomplete : s.dma.state ≠ .complete) :
    StaysLost s (handlerStep s) := by
  rcases handlerStep_cases s with e | ⟨status, r, active, e⟩ | ⟨j, status, r, j', v, active, -, step, e⟩ <;> rw [e]
  · exact .of_eq rfl rfl
  · exact .of_eq rfl rfl
  · obtain ⟨-, -, at_⟩ := inv.teardown.handler j status r active
    exact { StaysLost.teardownStep at_ incomplete step with }

theorem StaysLost.entryStep (s : State) : StaysLost s (entryStep s) := by
  unfold Machine.entryStep
  split <;> exact .of_eq rfl rfl

theorem StaysLost.fetchStep (s : State) : StaysLost s (fetchStep s) := by
  by_cases on : s.fetchEnabled = true
  · rw [fetchStep_of_enabled on]
    unfold State.fetchElement
    simp only
    split
    · exact .of_spi rfl rfl rfl rfl (.inl rfl)
    · exact .of_spi rfl rfl rfl rfl (.inr ⟨(s.fetchEnabled_iff.1 on).1, rfl⟩)
  · rw [fetchStep_of_not_enabled on]
    exact .of_eq rfl rfl

/-- A handoff needs a request (R130). -/
theorem handoffStep_of_no_request {s : State} (req : s.dma.req = false) : handoffStep s = .next s :=
  handoffStep_of_not_enabled fun on => by
    obtain ⟨-, latched, -⟩ := s.handoffEnabled_iff.1 on
    simp [req] at latched

/-- With an empty transmit buffer the shifter can only end the frame it is shifting. -/
theorem StaysLost.shifterStep {s : State} (gate : s.gate = true) : StaysLost s (shifterStep s) := by
  obtain ⟨on, -, empty, streaming⟩ := s.gate_iff.1 gate
  cases shifting : s.spi.shift with
  | none =>
    rw [shifterStep_of_hold (.inr ⟨shifting, empty⟩)]
    exact .of_eq rfl rfl
  | some x =>
    have deaf : s.spi.profile ≠ .command := by simp [streaming]
    rw [shifterStep_of_emit on shifting, State.emitFrame, State.receive_of_not_command (by exact deaf)]
    exact ⟨rfl, rfl, rfl, rfl, rfl, fun _ => rfl, .inl rfl⟩

theorem StaysLost.errorStep (s : State) : StaysLost s (errorStep s) := by
  by_cases running : s.dma.state = .running
  · simp only [Machine.errorStep, if_pos running]
    split
    · exact .of_spi (by simp) (by simp) (by simp) (by simp) (.inr ⟨running, by simp⟩)
    · exact .of_spi (by simp) (by simp) (by simp) (by simp) (.inl (by simp))
  · rw [errorStep_of_not_running running]
    exact .of_eq rfl rfl

theorem StaysLost.of_other {τ : Turn} {s u : State} (inv : BlockInv s) (incomplete : s.dma.state ≠ .complete)
    (req : s.dma.req = false) (gate : s.gate = true) (other : τ ≠ .fg) (h : turnStep τ s = .next u) : StaysLost s u := by
  cases τ
  case fg => exact absurd rfl other
  case deHandoff =>
    obtain rfl := Host.Outcome.next.inj ((handoffStep_of_no_request req).symm.trans h)
    exact .of_eq rfl rfl
  case hd => exact Host.Outcome.next.inj h ▸ .handlerStep inv incomplete
  case ie => exact Host.Outcome.next.inj h ▸ .entryStep s
  case deFetch => exact Host.Outcome.next.inj h ▸ .fetchStep s
  case sh => exact Host.Outcome.next.inj h ▸ .shifterStep gate
  case env => exact Host.Outcome.next.inj h ▸ .errorStep s

/-! ### The foreground, while the stream runs -/

/-- Setting what is set changes nothing. -/
theorem spi_of_set {x : Spi} : (x.spe = true → { x with spe := true } = x) ∧ (x.txDmaEn = true → { x with txDmaEn := true } = x) := by
  constructor <;> intro set <;> rw [← set]

theorem StaysLost.startEffect {i : Instr} {s : State} (engine : EngineInv s) (running : s.dma.state = .running)
    (gate : s.gate = true) (pass : ∀ c ∈ startChecks i s, c.1 = false) : StaysLost s (startEffect i s) := by
  obtain ⟨on, requesting, -, streaming⟩ := s.gate_iff.1 gate
  have enabled : s.dma.en = true := engine.enRunning.2 running
  cases i
  case dmaConfig =>
    simp only [startChecks, Machine.startEffect] at pass ⊢
    split at pass
    · simp [dmaConfigChecks, enabled] at pass
    · simp at pass
  case dmaStart => simp [startChecks, dmaStartChecks, running] at pass
  case dmaDisable => simp [startChecks, dmaDisableChecks, running] at pass
  case spiConfig => simp [startChecks, spiConfigChecks, on] at pass
  case spiXchg => simp [startChecks, spiXchgChecks, streaming] at pass
  case dmaClear => exact .of_spi rfl rfl rfl rfl (.inl rfl)
  case spiEnable => exact .of_eq (spi_of_set.1 on) rfl
  case spiDmaReq => exact .of_eq (spi_of_set.2 requesting) rfl
  case irqEnable =>
    simp only [Machine.startEffect, State.enableSource]
    split <;> exact .of_eq rfl rfl
  case lineSet l | lineClear l => cases l <;> exact .of_eq rfl rfl
  all_goals exact .of_eq rfl rfl

/-- A fill's micro-steps up to its start find no running stream, and no exchange is under way in StreamingMode. -/
theorem StaysLost.act {m : Micro} {ms : List Micro} {s : State} (inv : LinkAt (m :: ms) s)
    (fill : StartInv (m :: ms) s.dma.state) (shape : shapeAt m ms = true) (running : s.dma.state = .running)
    (gate : s.gate = true) : StaysLost s (m.act s) := by
  obtain ⟨on, requesting, -, streaming⟩ := s.gate_iff.1 gate
  have started : Micro.startStream ∉ m :: ms := fun starts => fill.notStarted starts running
  cases m
  case put b =>
    simp [shapeAt] at shape
    have waits : Micro.waitRx ∈ ms := List.mem_of_mem_head? shape.1
    have command := (inv.inExchange _ (List.mem_cons_of_mem _ waits) (.inl rfl)).1
    simp [streaming] at command
  case dropRx => exact ⟨rfl, rfl, rfl, rfl, rfl, id, .inl rfl⟩
  case takeResult =>
    obtain ⟨v, tr, e⟩ := Micro.act_takeResult s
    rw [e]
    exact ⟨rfl, rfl, rfl, rfl, rfl, id, .inl rfl⟩
  case clearSpe => exact absurd running (inv.notFed List.mem_cons_self)
  case setSpe => exact .of_eq (spi_of_set.1 on) rfl
  case requestOn => exact .of_eq (spi_of_set.2 requesting) rfl
  case startStream => exact absurd List.mem_cons_self started
  case streamingProfile | armSequencer | pipeline =>
    simp [shapeAt] at shape
    simp [shape] at started
  all_goals exact .of_eq rfl rfl

theorem StaysLost.of_handshake {s u : State} (inv : BlockInv s) (incomplete : s.dma.state ≠ .complete)
    (fetch : s.fetch = .command .seqHandshake) (h : execSeqHandshake s = .next u) : StaysLost s u := by
  rcases handshake_next h with rfl | ⟨-, rfl⟩ | ⟨-, rfl⟩ | ⟨-, rfl⟩ | ⟨j', v, low, -, step, rfl⟩
  case inr.inr.inr.inr =>
    obtain ⟨-, -, at_⟩ := inv.teardown.handshake ⟨fetch, by omega⟩
    exact { StaysLost.teardownStep (at_ low) incomplete step with }
  all_goals exact .of_eq rfl rfl

theorem StaysLost.foregroundStep {s u : State} (engine : EngineInv s) (inv : BlockInv s) (running : s.dma.state = .running)
    (gate : s.gate = true) (h : foregroundStep s = .next u) : StaysLost s u := by
  cases foregroundStep_fgNext h with
  | hold e => exact e ▸ .of_eq rfl rfl
  | start i inactive fetch hs first pass len last e before after outside =>
    rw [e]
    exact { StaysLost.startEffect engine running gate pass with }
  | later m inactive ready len last e pending outside =>
    have link := inv.link
    have fill := ((engineInv_iff s).1 engine).2
    rw [pending] at link fill
    rw [e]
    exact { StaysLost.act link fill (State.shapeAt_pending pending) running gate with }
  | halt first e => exact e ▸ .of_eq rfl rfl
  | handshake inactive fetch e before after => exact .of_handshake inv (by simp [running]) fetch e

/-! ### The step -/

/-- With GPREV high the end of the step delivers nothing. -/
theorem StaysLost.endOfStep {s u : State} (h : StaysLost s u) (gPrev : s.spi.gPrev = s.gate) : StaysLost s u.endOfStep := by
  rw [State.endOfStep_kept (by rw [h.gPrev, h.gate, gPrev])]
  exact h

/-- A step whose turn loses nothing, or a mark. -/
theorem StaysLost.step {s t : State} (inv : Inv s) (h : step s = .next t)
    (turn : ∀ u, turnStep s.takeTurn.1 s.takeTurn.2 = .next u → StaysLost s.takeTurn.2 u) : StaysLost s t := by
  obtain ⟨-, -, rfl⟩ := step_next h
  rcases liveStep_cases s with ⟨u, hu, e⟩ | ⟨f, -, e⟩ | ⟨r, -, e⟩ <;> rw [e]
  · exact { (turn u hu).endOfStep inv.base.gate with }
  · exact .of_eq rfl rfl
  · exact .of_eq rfl rfl

end Sys2Proof.Machine

namespace Sys2Proof.Proofs

open Sys2Proof.Machine

/-- Settles O60: `StaysLost.of_other` for every agent but the foreground, `StaysLost.foregroundStep` for the foreground while the
stream runs. -/
theorem lostRequestIsForGood : Obligations.LostRequestIsForGood := by
  unfold Obligations.LostRequestIsForGood
  refine ⟨fun s t inv running req gate h => ?_, fun s t inv state req gate other h => ?_⟩
  · obtain ⟨-, engine, block⟩ := (inv_iff _).1 inv.takeTurn
    have lost : StaysLost s t := .step inv h fun u hu => by
      by_cases fg : s.takeTurn.1 = .fg
      · rw [fg] at hu
        exact .foregroundStep engine block running gate hu
      · exact .of_other block (by simp [running]) req gate fg hu
    refine ⟨lost.ndt, lost.handed, ?_⟩
    rcases lost.state with same | ⟨-, aborted⟩
    · exact .inr ⟨same.trans running, lost.req.trans req, lost.gate.trans gate,
        lost.gPrev.trans (inv.base.gate.trans gate), lost.shift⟩
    · exact .inl aborted
  · obtain ⟨-, -, block⟩ := (inv_iff _).1 inv.takeTurn
    have incomplete : s.dma.state ≠ .complete := by rcases state with q | q <;> simp [q]
    have lost : StaysLost s t := .step inv h fun u hu => .of_other block incomplete req gate other hu
    refine ⟨lost.ndt, lost.handed, ?_, lost.req.trans req, lost.gate.trans gate,
      lost.gPrev.trans (inv.base.gate.trans gate), lost.shift⟩
    rcases lost.state with same | ⟨-, aborted⟩
    · rwa [same]
    · exact .inr aborted

end Sys2Proof.Proofs
end

section
/-! PROOF. The machine step by its turn, the launch state's invariant, final states, and what the agents leave of the flags
(spec/00_scope.md R6, R8; spec/70_reset_and_hazards.md R280, R295; spec/10_state.md R28). -/

namespace Sys2Proof.Machine

/-! ### The turn of a step (R6, R8) -/

/-- A machine without a mark takes the step of the agent whose turn it is, and settles what it answers. -/
theorem step_of_turn {s : State} {τ : Turn} (hf : s.fault = none) (hr : s.refused = none) (turn : s.takeTurn.1 = τ) :
    step s = .next (s.takeTurn.2.settle (turnStep τ s.takeTurn.2)) := by
  rw [step_live hf hr, liveStep, turn]

theorem step_of_fault {s : State} {f : Fault} (h : s.fault = some f) : step s = .fault f := by
  simp only [step, h]

theorem step_of_refused {s : State} {r : Refusal} (hf : s.fault = none) (h : s.refused = some r) : step s = .refused r := by
  simp only [step, hf, h]

/-! ### Flags (R28) -/

/-- Of the commands' first micro-steps DMA.CONFIG and DMA.CLEAR alone write the flags, and they set none. -/
theorem hasFlag_startEffect {i : Instr} {s : State} {k : FlagKind} (h : hasFlag (startEffect i s).dma.sr k = true) :
    hasFlag s.dma.sr k = true := by
  cases i
  case dmaConfig =>
    simp only [startEffect] at h
    split at h
    · simp [hasFlag] at h
    · exact h
  case dmaClear => exact hasFlag_clearFlags h
  case irqEnable =>
    simp only [startEffect, State.enableSource] at h
    split at h <;> exact h
  case lineSet l | lineClear l => cases l <;> exact h
  all_goals exact h

theorem Micro.hasFlag_act {m : Micro} {s : State} {k : FlagKind} (h : hasFlag (m.act s).dma.sr k = true) :
    hasFlag s.dma.sr k = true := by
  rcases m.act_dma s with rfl | ⟨buf, rfl⟩ | rfl | same
  · exact h
  · simp [act, hasFlag] at h
  · exact h
  · rwa [same] at h

theorem hasFlag_foregroundStep {s u : State} {k : FlagKind} (h : foregroundStep s = .next u)
    (set : hasFlag u.dma.sr k = true) : hasFlag s.dma.sr k = true := by
  cases foregroundStep_fgNext h with
  | hold e => rwa [e] at set
  | start i inactive fetch hs first pass len last e before after outside => exact hasFlag_startEffect (by rwa [e] at set)
  | later m inactive ready len last e pending outside => exact Micro.hasFlag_act (by rwa [e] at set)
  | halt first e => rwa [e] at set
  | handshake inactive fetch e before after =>
    obtain ⟨-, sr, dma, flags⟩ := handshake_dma e
    rw [dma] at set
    exact flags k set

theorem hasFlag_handlerStep {s : State} {k : FlagKind} (set : hasFlag (handlerStep s).dma.sr k = true) :
    hasFlag s.dma.sr k = true := by
  rcases handlerStep_cases s with e | ⟨status, r, -, e⟩ | ⟨j, status, r, j', t, -, -, step, e⟩ <;> rw [e] at set
  · exact set
  · exact set
  · obtain ⟨sr, dma, flags⟩ := teardownStep_dma step
    rw [dma] at set
    exact flags k set

/-! ### Drain (R247) -/

/-- A shifter step of an enabled link sends the frame being shifted, loads the one in the transmit buffer, or holds an empty link. -/
theorem shifterStep_cases {s : State} (on : s.spi.spe = true) :
    (∃ x, s.spi.shift = some x ∧ shifterStep s = s.emitFrame x) ∨
    (s.spi.shift = none ∧ ∃ f, s.spi.txBuf = some f ∧ shifterStep s = s.loadShift f) ∨
    (s.bsy = false ∧ shifterStep s = s) := by
  cases shifting : s.spi.shift with
  | some x => exact .inl ⟨x, rfl, shifterStep_of_emit on shifting⟩
  | none =>
    cases waiting : s.spi.txBuf with
    | some f => exact .inr (.inl ⟨rfl, f, rfl, shifterStep_of_load on shifting waiting⟩)
    | none =>
      exact .inr (.inr ⟨s.bsy_eq_false_iff.2 ⟨waiting, shifting⟩, shifterStep_of_hold (.inr ⟨shifting, waiting⟩)⟩)

/-- How many steps of the shifter the link's two buffers need. -/
def State.drainLeft (s : State) : Nat := 2 * s.spi.txBuf.isSome.toNat + s.spi.shift.isSome.toNat

/-- How many frames the link's two buffers hold. -/
def State.framesLeft (s : State) : Nat := s.spi.txBuf.isSome.toNat + s.spi.shift.isSome.toNat

theorem State.drainLeft_le (s : State) : s.drainLeft ≤ 3 ∧ s.framesLeft ≤ 2 := by
  unfold drainLeft framesLeft
  cases s.spi.txBuf.isSome <;> cases s.spi.shift.isSome <;> decide

theorem State.drainLeft_eq_zero_iff (s : State) : s.drainLeft = 0 ↔ s.bsy = false := by
  unfold drainLeft bsy
  cases s.spi.txBuf.isSome <;> cases s.spi.shift.isSome <;> decide

theorem State.emitFrame_link (s : State) (x : Shifting) :
    (s.emitFrame x).spi.spe = s.spi.spe ∧ (s.emitFrame x).spi.txBuf = s.spi.txBuf ∧ (s.emitFrame x).spi.shift = none ∧
    (s.emitFrame x).trace =
      s.trace ++ [.frame x.cs0 x.dc0 x.frame (decide (s.line.cs = x.cs0 ∧ s.line.dc = x.dc0))] := by
  unfold emitFrame receive
  split <;> simp

/-- One step of an enabled link's shifter: one step less to go, and a frame sent is a frame less. -/
theorem shifterStep_drains {s : State} (on : s.spi.spe = true) :
    (shifterStep s).spi.spe = true ∧ (shifterStep s).drainLeft = s.drainLeft - 1 ∧
    ∃ es : List Event, (shifterStep s).trace = s.trace ++ es ∧ es.length + (shifterStep s).framesLeft = s.framesLeft ∧
      ∀ e ∈ es, ∃ (cs dc : Bool) (f : Frame) (stable : Bool), e = .frame cs dc f stable := by
  rcases shifterStep_cases on with ⟨x, shifting, e⟩ | ⟨empty, f, waiting, e⟩ | ⟨drained, e⟩
  · obtain ⟨spe, tx, sent, trace⟩ := s.emitFrame_link x
    rw [e]
    refine ⟨spe.trans on, ?_, _, trace, ?_, ?_⟩
    · simp [State.drainLeft, tx, sent, shifting]
    · simp [State.framesLeft, tx, sent, shifting, Nat.add_comm]
    · exact List.forall_mem_singleton.2 ⟨_, _, _, _, rfl⟩
  · rw [e]
    refine ⟨on, ?_, [], by simp, ?_, by simp⟩
    · simp [State.drainLeft, empty, waiting]
    · simp [State.framesLeft, empty, waiting]
  · rw [e, s.drainLeft_eq_zero_iff.2 drained]
    exact ⟨on, rfl, [], by simp, by simp, by simp⟩

/-! ### Final states (R295) -/

/-- The parts of a final state. -/
theorem State.final_iff (s : State) :
    s.final = true ↔
      s.fault = none ∧ s.refused = none ∧ s.fg.halted = true ∧ s.hd = .inactive ∧ s.takeable = false ∧
      s.dma.state ≠ .running ∧ s.bsy = false := by
  simp [final, and_assoc]

theorem handlerStep_of_inactive {s : State} (inactive : s.hd = .inactive) : handlerStep s = s := by
  simp only [handlerStep, inactive]

theorem State.shEnabled_of_drained {s : State} (drained : s.bsy = false) : s.shEnabled = false := by
  simp [shEnabled, drained]

theorem State.fgEnabled_of_halted {s : State} (halted : s.fg.halted = true) : s.fgEnabled = false := by
  simp [fgEnabled, halted]

end Sys2Proof.Machine

namespace Sys2Proof.Proofs

open Sys2Proof.Machine

/-- Settles O7: `foregroundStep_free` in the foreground's turn. -/
theorem stepRunsDecoded : Obligations.StepRunsDecoded := by
  unfold Obligations.StepRunsDecoded
  intro s i free turn decoded
  refine ⟨s.takeTurn_eq, ?_⟩
  have runs : turnStep .fg s.takeTurn.2 = exec i s.takeTurn.2 :=
    foregroundStep_free free.notHalted free.notPreempted decoded
  rw [step_of_turn free.noFault free.noRefusal turn, runs]
  cases exec i s.takeTurn.2 <;> rfl

/-- Settles O8: `step_of_turn` for each turn, with the foreground's holds and rejected packets; a marked machine by `step_of_fault`
and `step_of_refused`. -/
theorem stepRunsTheTurn : Obligations.StepRunsTheTurn := by
  unfold Obligations.StepRunsTheTurn
  refine ⟨fun s hf hr => ⟨fun turn held => ?_, fun turn running inactive e f rejected code => ?_, fun turn => ?_,
    fun turn => ?_, fun turn => ?_, fun turn t handed => ?_, fun turn misfit => ?_, fun turn => ?_, fun turn => ?_⟩,
    fun s => ⟨fun f h => step_of_fault h, fun r hf h => step_of_refused hf h⟩⟩
  · have holds : turnStep .fg s.takeTurn.2 = .next s.takeTurn.2 := foregroundStep_hold held
    rw [step_of_turn hf hr turn, holds]
    rfl
  · have faults : turnStep .fg s.takeTurn.2 = .fault f := by
      refine (foregroundStep_reject (s := s.takeTurn.2) running inactive rejected).trans ?_
      rcases code with ⟨rfl, rfl⟩ | ⟨rfl, rfl⟩ | ⟨rfl, rfl⟩ <;> rfl
    rw [step_of_turn hf hr turn, faults]
    rfl
  · exact step_of_turn hf hr turn
  · exact step_of_turn hf hr turn
  · exact step_of_turn hf hr turn
  · rw [step_of_turn hf hr turn, turnStep, handed]
    rfl
  · rw [step_of_turn hf hr turn, turnStep, misfit]
    rfl
  · exact step_of_turn hf hr turn
  · exact step_of_turn hf hr turn

/-- Settles O14: nothing is still to come at µ1, the stream and the link are empty, and no handler is active. -/
theorem launchInvariant : Obligations.LaunchInvariant := by
  unfold Obligations.LaunchInvariant
  intro par image prog canonical
  have before : (State.launch par image prog).pending = [] := State.pending_start rfl
  refine (inv_iff _).2 ⟨⟨canonical, rfl⟩, (engineInv_iff _).2 ⟨?_, ?_⟩, ?_, ?_⟩
  · exact ⟨iff_of_false nofun nofun, rfl, Nat.le_refl 0, Nat.le_refl 0, fun _ => rfl, Nat.zero_le _, by simp [hasFlag, State.launch],
      nofun⟩
  · rw [before]
    exact .nil _
  · rw [before]
    exact .of_plain nofun nofun nofun nofun nofun nofun
  · exact .of_inactive rfl (fun inside => absurd inside.2 (by simp [State.launch])) nofun

/-- Settles O33: agent by agent, `hasFlag_foregroundStep` and `hasFlag_handlerStep`; the entry and the shifter leave the stream
alone. -/
theorem softwareSetsNoFlag : Obligations.SoftwareSetsNoFlag := by
  unfold Obligations.SoftwareSetsNoFlag
  rintro turn s t k (rfl | rfl | rfl | rfl) h set
  · exact hasFlag_foregroundStep h set
  · exact hasFlag_handlerStep (Host.Outcome.next.inj h ▸ set)
  · obtain rfl := Host.Outcome.next.inj h
    unfold Machine.entryStep at set
    split at set <;> exact set
  · obtain rfl := Host.Outcome.next.inj h
    obtain ⟨-, -, -, dma, -⟩ := shifterStep_keeps s
    rwa [dma] at set

/-- Settles O54: `shifterStep_drains` three times, from at most three steps to go and at most two frames. -/
theorem drainIsBounded : Obligations.DrainIsBounded := by
  unfold Obligations.DrainIsBounded
  intro s on
  obtain ⟨steps, frames⟩ := s.drainLeft_le
  obtain ⟨on1, left1, es1, trace1, frames1, all1⟩ := shifterStep_drains on
  obtain ⟨on2, left2, es2, trace2, frames2, all2⟩ := shifterStep_drains on1
  obtain ⟨-, left3, es3, trace3, frames3, all3⟩ := shifterStep_drains on2
  refine ⟨(State.drainLeft_eq_zero_iff _).1 (by omega), es1 ++ es2 ++ es3, ?_, ?_, ?_⟩
  · rw [trace3, trace2, trace1, List.append_assoc, List.append_assoc, List.append_assoc]
  · simp only [List.length_append]
    omega
  · simp only [List.forall_mem_append]
    exact ⟨⟨all1, all2⟩, all3⟩

/-- Settles O59: what keeps each agent from a step. -/
theorem finalHasNoStep : Obligations.FinalHasNoStep := by
  unfold Obligations.FinalHasNoStep
  intro s final
  obtain ⟨-, -, halted, inactive, untakeable, still, drained⟩ := s.final_iff.1 final
  have fetches := State.fetchEnabled_of_not_running still
  have hands := State.handoffEnabled_of_not_running still
  obtain ⟨noTx, noShift⟩ := s.bsy_eq_false_iff.1 drained
  refine ⟨?_, foregroundStep_hold (.inl halted), handlerStep_of_inactive inactive, ?_, ?_, ?_, ?_,
    errorStep_of_not_running still⟩
  · simp only [State.anyEnabled, State.fgEnabled_of_halted halted, State.hdEnabled_of_inactive inactive, untakeable, fetches,
      hands, State.shEnabled_of_drained drained, Bool.or_self]
  · exact if_neg (by simp [untakeable])
  · exact fetchStep_of_not_enabled (by simp [fetches])
  · exact handoffStep_of_not_enabled (by simp [hands])
  · exact shifterStep_of_hold (.inr ⟨noShift, noTx⟩)

end Sys2Proof.Proofs
end

section
/-! PROOF. When the foreground has an enabled step (spec/43_control.md R221). -/

namespace Sys2Proof.Machine

/-- The micro-step that comes next is the one fg.k names in the command's list. -/
theorem State.later_of_pending_head {s : State} {m : Micro} (h : s.pending.head? = some m) :
    ∃ i n, s.fetch = .command i ∧ i ≠ .seqHandshake ∧ s.fg.k = n + 2 ∧ i.laterSteps[n]? = some m := by
  unfold pending at h
  split at h
  · rename_i i fetch
    split at h
    · cases h
    · refine ⟨i, s.fg.k - 2, fetch, ?_, by omega, by rwa [List.head?_drop] at h⟩
      rintro rfl
      simp [Instr.laterSteps] at h
  · cases h

theorem TeardownNext.lt {j j' : Nat} {status : BitVec 5} {r : Half} {s v : State} (h : TeardownNext status r s j j' v) :
    j < j' := by
  cases h <;> decide

/-- A micro-step that does not hold moves the foreground (R7, R8). -/
theorem exec_next_moves {i : Instr} {s t : State} (running : s.fg.halted = false) (h : exec i s = .next t) :
    t = s ∨ t.fg ≠ s.fg := by
  cases exec_next h with
  | hold h => exact .inl h
  | start hk pass h =>
    obtain ⟨pc, k, -⟩ := startEffect_keeps i s
    exact .inr (h ▸ State.advance_moves k pc (by omega))
  | later n m hk hm ready h =>
    obtain ⟨pc, k, -⟩ := m.act_keeps s
    exact .inr (h ▸ State.advance_moves k pc (by omega))
  | halt hi hk h =>
    refine .inr fun same => ?_
    rw [h] at same
    simpa [running] using congrArg Fg.halted same
  | handshake hi h =>
    rcases handshake_next h with rfl | ⟨first, rfl⟩ | ⟨second, rfl⟩ | ⟨last, rfl⟩ | ⟨j', v, low, -, step, rfl⟩
    · exact .inl rfl
    · exact .inr (State.advance_moves rfl rfl (by omega))
    · refine .inr fun same => ?_
      simpa [second] using congrArg Fg.k same
    · exact .inr (State.advance_moves rfl rfl (by omega))
    · refine .inr fun same => ?_
      have k : j' + 2 = s.fg.k := congrArg Fg.k same
      have bounds := (teardownStep_next step).lt
      omega

/-! ### The micro-steps of SEQ.HANDSHAKE (R199), one equation for each -/

theorem exec_handshake_mask {s : State} (hk : s.fg.k = 1) :
    exec .seqHandshake s = .next (s.saveAndMask.advance 1 false) := if_pos hk

theorem exec_handshake_status {s : State} (hk : s.fg.k = 2) :
    exec .seqHandshake s =
      .next
        (({ s with fg := { s.fg with status := s.dma.sr &&& s.dma.ie, remaining := s.dma.ndt } } : State).advance 1
          false) := by
  simp only [exec, execSeqHandshake]
  rw [if_neg (by omega), if_pos hk]

theorem exec_handshake_restore {s : State} (hk : s.fg.k = 13) :
    exec .seqHandshake s = .next (s.restoreMask.advance 1 true) := by
  simp only [exec, execSeqHandshake]
  rw [if_neg (by omega), if_neg (by omega), if_pos hk]

/-- µ3 to µ12 are H1 to H10. -/
theorem exec_handshake_teardown {s : State} {j : Nat} (hk : s.fg.k = j + 2) (low : 1 ≤ j) (high : j ≤ 10) :
    exec .seqHandshake s =
      .next ((teardownStep j s.fg.status s.fg.remaining s).elim s fun v => { v.2 with fg := { v.2.fg with k := v.1 + 2 } }) := by
  simp only [exec, execSeqHandshake]
  rw [if_neg (by omega), if_neg (by omega), if_neg (by omega), if_neg (by omega), show s.fg.k - 2 = j by omega]
  cases teardownStep j s.fg.status s.fg.remaining s <;> rfl

/-- µ1 is an action: it never holds (R7). -/
theorem exec_start_moves {i : Instr} {s : State} (first : s.fg.k = 1) (running : s.fg.halted = false) :
    s.moves (exec i s) = true := by
  by_cases hh : i = .ctlHalt
  · subst hh
    rw [exec_halt first, State.moves_next]
    intro same
    simpa [running] using congrArg Fg.halted same
  by_cases hs : i = .seqHandshake
  · subst hs
    rw [exec_handshake_mask first, State.moves_next]
    exact State.advance_moves rfl rfl (by omega)
  rw [exec_start first hh hs]
  split
  · obtain ⟨pc, k, -⟩ := startEffect_keeps i s
    rw [State.moves_next]
    exact State.advance_moves k pc (by omega)
  · rename_i how _
    cases how <;> rfl

/-- A later micro-step holds exactly when it is a wait that is false (R7). -/
theorem exec_later_moves {i : Instr} {s : State} {n : Nat} {m : Micro} (hk : s.fg.k = n + 2) (hs : i ≠ .seqHandshake)
    (hm : i.laterSteps[n]? = some m) : s.moves (exec i s) = m.ready s := by
  rw [exec_later hk hs, hm]
  cases ready : m.ready s with
  | true =>
    obtain ⟨pc, k, -⟩ := m.act_keeps s
    simp only [ready, if_true, State.moves_next]
    exact State.advance_moves k pc (by omega)
  | false => simp [ready, State.moves]

/-- A step of the teardown holds exactly at its three waits (R243). -/
theorem teardownStep_isSome_iff {j : Nat} (low : 1 ≤ j) (high : j ≤ 10) (status : BitVec 5) (r : Half) (s : State) :
    (teardownStep j status r s).isSome = true ↔
      (j = 4 → s.bsy = false) ∧ (j = 6 → s.spi.spe = false) ∧ (j = 9 → s.spi.spe = true) := by
  match j with
  | 4 => cases h : s.bsy <;> simp [teardownStep, h]
  | 6 | 9 => cases h : s.spi.spe <;> simp [teardownStep, h]
  | 1 | 2 | 3 | 5 | 7 | 8 | 10 => simp [teardownStep]

/-- SEQ.HANDSHAKE's micro-steps after µ1 hold at the teardown's waits alone (R199). -/
theorem handshake_moves_iff {s : State} (low : 2 ≤ s.fg.k) (high : s.fg.k ≤ 13) :
    s.moves (exec .seqHandshake s) = true ↔
      (s.fg.k = 6 → s.bsy = false) ∧ (s.fg.k = 8 → s.spi.spe = false) ∧ (s.fg.k = 11 → s.spi.spe = true) := by
  by_cases second : s.fg.k = 2
  · rw [exec_handshake_status second, State.moves_next]
    refine iff_of_true (fun same => ?_) (by omega)
    simpa [second] using congrArg Fg.k same
  by_cases last : s.fg.k = 13
  · rw [exec_handshake_restore last, State.moves_next]
    exact iff_of_true (State.advance_moves rfl rfl (by omega)) (by omega)
  obtain ⟨j, hk⟩ : ∃ j, s.fg.k = j + 2 := ⟨s.fg.k - 2, by omega⟩
  have waits := teardownStep_isSome_iff (j := j) (by omega) (by omega) s.fg.status s.fg.remaining s
  have indices : (j = 4 ↔ s.fg.k = 6) ∧ (j = 6 ↔ s.fg.k = 8) ∧ (j = 9 ↔ s.fg.k = 11) := by omega
  rw [indices.1, indices.2.1, indices.2.2] at waits
  rw [← waits, exec_handshake_teardown hk (by omega) (by omega)]
  cases step : teardownStep j s.fg.status s.fg.remaining s with
  | none => simp [State.moves]
  | some v =>
    have lt := (teardownStep_next step).lt
    rw [State.moves_next]
    refine iff_of_true (fun same => ?_) rfl
    have k : v.1 + 2 = s.fg.k := congrArg Fg.k same
    omega

/-- An outcome of a running foreground moves it exactly when it is no hold. -/
theorem moves_iff_ne {i : Instr} {s : State} (running : s.fg.halted = false) :
    s.moves (exec i s) = true ↔ exec i s ≠ .next s := by
  cases h : exec i s with
  | next t =>
    rw [State.moves_next]
    constructor
    · rintro moved same
      exact moved (by rw [Host.Outcome.next.inj same])
    · intro other
      exact (exec_next_moves running h).resolve_left fun same => other (by rw [same])
  | fault f => simp
  | refused r => simp

end Sys2Proof.Machine

namespace Sys2Proof.Proofs

open Sys2Proof.Machine

/-- Settles O9: `exec_start_moves`, `exec_later_moves` and `handshake_moves_iff` for a free foreground; a halted or preempted one
holds. -/
theorem foregroundAdmission : Obligations.ForegroundAdmission := by
  unfold Obligations.ForegroundAdmission
  refine ⟨fun s => ?_, fun s => ⟨fun halted => foregroundStep_hold (.inl halted), fun active => ⟨foregroundStep_hold (.inr active), ?_⟩⟩⟩
  · intro free
    refine ⟨fun bound => ?_, fun ⟨hf, hr, running, inactive⟩ => ?_⟩
    · rw [Bool.eq_false_iff]
      intro on
      simp only [State.fgEnabled, Bool.and_eq_true, Bool.not_eq_true', Option.isNone_iff_eq_none, decide_eq_true_eq] at on
      obtain ⟨⟨⟨⟨hf, hr⟩, running⟩, inactive⟩, -⟩ := on
      exact bound ⟨hf, hr, running, inactive⟩
    have enabled := State.fgEnabled_free hf hr running inactive
    refine ⟨fun e rejected => by rw [enabled, rejected], fun i fetch first => ?_, fun m next => ?_, fun fetch low high => ?_, ?_⟩
    · rw [enabled, fetch]
      exact exec_start_moves first running
    · obtain ⟨i, n, fetch, hs, hk, hm⟩ := State.later_of_pending_head next
      rw [enabled, fetch]
      simp only
      rw [exec_later_moves hk hs hm]
      cases m <;>
        simp [Micro.ready, State.rxne, State.ready, State.bsy, inactive, Option.isSome_iff_ne_none]
    · rw [enabled, fetch, ← s.bsy_eq_false_iff]
      exact handshake_moves_iff low high
    · rw [enabled]
      cases fetch : s.fetch with
      | reject e => simp [foregroundStep_reject running inactive fetch]
      | command i =>
        rw [foregroundStep_free running inactive fetch]
        exact moves_iff_ne running
  · exact if_neg fun taken => active (s.takeable_iff.1 taken).2.2.1

end Sys2Proof.Proofs
end

section
/-! PROOF. The commands, micro-step by micro-step: their checks in order, their effects and their waits (spec/43_control.md,
spec/40_dma.md R120 to R125, spec/41_spi.md R160 to R166, spec/42_sequencer.md R193 to R200). -/

namespace Sys2Proof.Machine

/-! ### One micro-step, by what decides it -/

/-- The command is made of µ1's checks and effect and a list of later micro-steps; CTL.HALT and SEQ.HANDSHAKE are not. -/
def Instr.listed : Instr → Bool
  | .ctlHalt | .seqHandshake => false
  | _ => true

theorem Instr.ne_of_listed {i : Instr} (h : Instr.listed i = true) : i ≠ .ctlHalt ∧ i ≠ .seqHandshake := by
  constructor <;> rintro rfl <;> cases h

section

variable {i : Instr} {s : State}

/-- A failed check ends µ1 as it says (R13). -/
theorem exec_stop (how : Stop) (hk : s.fg.k = 1) (stops : firstStop (startChecks i s) = some how)
    (listed : Instr.listed i = true := by rfl) : exec i s = how.outcome := by
  obtain ⟨hh, hs⟩ := Instr.ne_of_listed listed
  rw [exec_start hk hh hs, stops]

/-- µ1 of a command of one micro-step, its checks passed. -/
theorem exec_only (hk : s.fg.k = 1) (pass : firstStop (startChecks i s) = none) (listed : Instr.listed i = true := by rfl)
    (only : i.laterSteps.isEmpty = true := by rfl) : exec i s = .next ((startEffect i s).done (1 + i.operandWords)) := by
  obtain ⟨hh, hs⟩ := Instr.ne_of_listed listed
  rw [exec_start hk hh hs, pass, only]
  rfl

/-- µ1 of a command of more micro-steps, its checks passed. -/
theorem exec_begin (hk : s.fg.k = 1) (pass : firstStop (startChecks i s) = none) (listed : Instr.listed i = true := by rfl)
    (more : i.laterSteps.isEmpty = false := by rfl) : exec i s = .next (startEffect i s).goOn := by
  obtain ⟨hh, hs⟩ := Instr.ne_of_listed listed
  rw [exec_start hk hh hs, pass, more]
  rfl

/-- A wait that is false holds. -/
theorem exec_hold (n : Nat) (m : Micro) (hk : s.fg.k = n + 2) (waits : m.ready s = false)
    (listed : Instr.listed i = true := by rfl) (hm : i.laterSteps[n]? = some m := by rfl) : exec i s = .next s := by
  rw [exec_later hk (Instr.ne_of_listed listed).2, hm]
  simp [waits]

/-- A later micro-step with more to come. -/
theorem exec_act (n : Nat) (m : Micro) (hk : s.fg.k = n + 2) (ready : m.ready s = true)
    (listed : Instr.listed i = true := by rfl) (hm : i.laterSteps[n]? = some m := by rfl)
    (more : (n + 1 == i.laterSteps.length) = false := by rfl) : exec i s = .next (m.act s).goOn := by
  rw [exec_later hk (Instr.ne_of_listed listed).2, hm, more]
  simp only [ready, if_true]
  rfl

/-- The last micro-step. -/
theorem exec_end (n : Nat) (m : Micro) (hk : s.fg.k = n + 2) (ready : m.ready s = true)
    (listed : Instr.listed i = true := by rfl) (hm : i.laterSteps[n]? = some m := by rfl)
    (last : (n + 1 == i.laterSteps.length) = true := by rfl) :
    exec i s = .next ((m.act s).done (1 + i.operandWords)) := by
  rw [exec_later hk (Instr.ne_of_listed listed).2, hm, last]
  simp only [ready, if_true]
  rfl

end

/-! ### The shared checks -/

@[simp] theorem wrongStream_self (s : State) : wrongStream s s.par.streamId = (false, .fault .badStream) := by
  simp [wrongStream]

theorem wrongStream_other {s : State} {stream : BitVec 3} (h : stream ≠ s.par.streamId) :
    wrongStream s stream = (true, .fault .badStream) := by
  simp [wrongStream, h]

theorem exclusion_of_fill {s : State} (h : s.fillUnderWay) : exclusion s = (true, .fault .fgStreaming) := by
  rw [exclusion, decide_eq_true (show s.seq.state = .streamingArmed ∨ s.seq.state = .streaming from h)]

theorem exclusion_of_free {s : State} (h : ¬ s.fillUnderWay) : exclusion s = (false, .fault .fgStreaming) := by
  rw [exclusion, decide_eq_false (show ¬ (s.seq.state = .streamingArmed ∨ s.seq.state = .streaming) from h)]

/-- µ1's checks of DMA.CONFIG, its width and burst named (R120). -/
theorem startChecks_dmaConfig {s : State} {stream : BitVec 3} {c : Ctrl} {e : ElemSize} {b : Burst} (src dst : Word) (n : Half)
    (width : ElemSize.ofCode c.esize = some e) (burst : Burst.ofCode c.burst = some b) :
    startChecks (.dmaConfig stream c src dst n) s = dmaConfigChecks s stream (configDescriptor c e b src dst n) := by
  simp only [startChecks, width, burst]

end Sys2Proof.Machine

namespace Sys2Proof.Proofs

open Sys2Proof.Machine

/-- Settles O17. -/
theorem nopAndHalt : Obligations.NopAndHalt := by
  unfold Obligations.NopAndHalt
  exact fun s first => ⟨exec_only first rfl, exec_halt first⟩

/-- Settles O18. -/
theorem interruptCommands : Obligations.InterruptCommands := by
  unfold Obligations.InterruptCommands
  intro s first
  refine ⟨exec_only first rfl, exec_only first rfl, ?_, fun id other => ?_⟩
  · rw [exec_only first rfl, startEffect, State.enableSource, if_pos rfl]
    rfl
  · rw [exec_only first rfl, startEffect, State.enableSource, if_neg other]
    rfl

/-- Settles O19. -/
theorem lineCommands : Obligations.LineCommands := by
  unfold Obligations.LineCommands
  intro s first
  refine ⟨?_, ?_, ?_, ?_, ?_, ?_⟩ <;> exact exec_only first rfl

/-- Settles O20. -/
theorem waitCommands : Obligations.WaitCommands := by
  unfold Obligations.WaitCommands
  intro s stream
  refine ⟨fun first other => ?_, fun first same => ?_, fun second zero => ?_, fun second left => ?_, fun first => ?_,
    fun second idle inactive => ?_, fun second busy => ?_⟩
  · exact exec_stop (.fault .badStream) first (by simp [startChecks, firstStop_cons, wrongStream_other other])
  · exact exec_begin first (by simp [startChecks, firstStop_cons, same])
  · exact exec_end 0 .waitReady second (by simp [Micro.ready, State.ready, zero])
  · exact exec_hold 0 .waitReady second (by simpa [Micro.ready, State.ready] using left)
  · exact exec_begin first rfl
  · exact exec_end 0 .waitSeqIdle second (by simp [Micro.ready, idle, inactive])
  · exact exec_hold 0 .waitSeqIdle second (by rcases busy with h | h <;> simp [Micro.ready, h])

/-- Settles O22: the stream id is the first check of each. -/
theorem badStream : Obligations.BadStream := by
  unfold Obligations.BadStream
  intro s stream first other
  have wrong := wrongStream_other other
  refine ⟨fun c src dst n wf => ?_, ?_, ?_, ?_, fun m => ?_, ?_, ?_⟩
  · obtain ⟨e, b, width, burst⟩ := Ctrl.wf_codes wf
    refine exec_stop (.fault .badStream) first ?_
    rw [startChecks_dmaConfig src dst n width burst, dmaConfigChecks, wrong]
    rfl
  all_goals
    refine exec_stop (.fault .badStream) first ?_
    simp [startChecks, dmaStartChecks, dmaDisableChecks, firstStop_cons, wrong]

/-- Settles O23: the exclusion is the first check after the stream id. -/
theorem foregroundExclusion : Obligations.ForegroundExclusion := by
  unfold Obligations.ForegroundExclusion
  intro s first fill
  have excluded := exclusion_of_fill fill
  refine ⟨fun c src dst n wf => ?_, ?_, ?_, fun m => ?_, fun p => ?_, ?_, ?_, fun b => ?_, ?_⟩
  · obtain ⟨e, b, width, burst⟩ := Ctrl.wf_codes wf
    refine exec_stop (.fault .fgStreaming) first ?_
    rw [startChecks_dmaConfig src dst n width burst, dmaConfigChecks, wrongStream_self, excluded]
    rfl
  all_goals
    refine exec_stop (.fault .fgStreaming) first ?_
    simp [startChecks, dmaStartChecks, dmaDisableChecks, spiConfigChecks, spiXchgChecks, firstStop_cons, excluded]

/-- Settles O25. -/
theorem dmaStart : Obligations.DmaStart := by
  unfold Obligations.DmaStart
  intro s first free
  have included := exclusion_of_free free
  refine ⟨fun running => ?_, fun still unarmed => ?_, fun armed zero => ?_, fun armed left => ?_⟩
  · exact exec_stop (.fault .dmaBusy) first (by simp [startChecks, dmaStartChecks, firstStop_cons, included, running])
  · exact exec_stop (.fault .dmaNotArmed) first
      (by simp [startChecks, dmaStartChecks, firstStop_cons, included, still, unarmed])
  · exact exec_stop (.fault .zeroCount) first (by simp [startChecks, dmaStartChecks, firstStop_cons, included, armed, zero])
  · exact exec_only first (by simpa [startChecks, dmaStartChecks, firstStop_cons, included, armed] using left)

/-- Settles O26. -/
theorem statusCommands : Obligations.StatusCommands := by
  unfold Obligations.StatusCommands
  intro s first
  refine ⟨exec_only first ?_, exec_only first ?_, exec_only first rfl⟩ <;> simp [startChecks, firstStop_cons]

/-- Settles O28. -/
theorem dmaClearAndDisable : Obligations.DmaClearAndDisable := by
  unfold Obligations.DmaClearAndDisable
  refine ⟨fun s mask first free => ?_, fun s => ⟨fun first free running => ?_, fun first free armed => ?_,
    fun first free unarmed still => ?_, fun second off => ?_, fun second on => ?_⟩⟩
  · exact exec_only first (by simp [startChecks, firstStop_cons, exclusion_of_free free])
  · exact exec_stop (.refuse .cancel) first
      (by simp [startChecks, dmaDisableChecks, firstStop_cons, exclusion_of_free free, running])
  · rw [exec_begin first (by simp [startChecks, dmaDisableChecks, firstStop_cons, exclusion_of_free free, armed])]
    simp [startEffect, State.disableStream, State.unarm, armed]
  · rw [exec_begin first (by simp [startChecks, dmaDisableChecks, firstStop_cons, exclusion_of_free free, still])]
    simp [startEffect, State.disableStream, State.unarm, unarmed]
  · exact exec_end 0 .waitDmaOff second (by simp [Micro.ready, off])
  · exact exec_hold 0 .waitDmaOff second (by simp [Micro.ready, on])

/-- Settles O35. -/
theorem spiConfig : Obligations.SpiConfig := by
  unfold Obligations.SpiConfig
  intro s first free
  have included := exclusion_of_free free
  refine ⟨fun p => ⟨fun on => ?_, fun off busy => ?_⟩, fun off noTx noShift => ?_⟩
  · exact exec_stop (.fault .spiEnabled) first (by simp [startChecks, spiConfigChecks, firstStop_cons, included, on])
  · have busy : s.bsy = true := by
      rw [← Bool.not_eq_false, s.bsy_eq_false_iff]
      tauto
    exact exec_stop (.fault .spiBusy) first (by simp [startChecks, spiConfigChecks, firstStop_cons, included, off, busy])
  · have drained := s.bsy_eq_false_iff.2 ⟨noTx, noShift⟩
    constructor <;>
      exact exec_only first (by simp [startChecks, spiConfigChecks, firstStop_cons, included, off, drained])

/-- Settles O36. -/
theorem spiEnableAndRequest : Obligations.SpiEnableAndRequest := by
  unfold Obligations.SpiEnableAndRequest
  refine ⟨fun s => ⟨fun first free none => ?_, fun first free configured => ?_, fun second on => ?_, fun second off => ?_⟩,
    fun s first free => ⟨fun other => ?_, fun streaming => ?_⟩⟩
  · exact exec_stop (.fault .spiUnconfigured) first (by simp [startChecks, firstStop_cons, exclusion_of_free free, none])
  · exact exec_begin first (by simp [startChecks, firstStop_cons, exclusion_of_free free, configured])
  · exact exec_end 0 .waitSpeSet second on
  · exact exec_hold 0 .waitSpeSet second off
  · exact exec_stop (.fault .spiMode) first (by simp [startChecks, firstStop_cons, exclusion_of_free free, other])
  · exact exec_only first (by simp [startChecks, firstStop_cons, exclusion_of_free free, streaming])

/-- Settles O37. -/
theorem spiDisable : Obligations.SpiDisable := by
  unfold Obligations.SpiDisable
  intro s
  refine ⟨fun first free running => ?_, fun first free still => ?_, fun second noTx noShift => ?_, fun second busy => ?_,
    fun third => ?_, fun fourth off => ?_, fun fourth on => ?_⟩
  · exact exec_stop (.fault .spiBusy) first (by simp [startChecks, firstStop_cons, exclusion_of_free free, running])
  · exact exec_begin first (by simp [startChecks, firstStop_cons, exclusion_of_free free, still])
  · exact exec_act 0 .waitNotBusy second (by simp [Micro.ready, s.bsy_eq_false_iff.2 ⟨noTx, noShift⟩])
  · have busy : s.bsy = true := by
      rw [← Bool.not_eq_false, s.bsy_eq_false_iff]
      tauto
    exact exec_hold 0 .waitNotBusy second (by simp [Micro.ready, busy])
  · exact exec_act 1 .clearSpe third rfl
  · exact exec_end 2 .waitSpeClear fourth (by simp [Micro.ready, off])
  · exact exec_hold 2 .waitSpeClear fourth (by simp [Micro.ready, on])

/-- Settles O38. -/
theorem spiXchg : Obligations.SpiXchg := by
  unfold Obligations.SpiXchg
  intro s b
  refine ⟨fun first free other => ?_, fun first free command off => ?_, fun first free command on full => ?_,
    fun first free command on empty => ?_, fun second received => ?_, fun second none => ?_, fun v third received => ?_⟩
  · exact exec_stop (.fault .spiMode) first
      (by simp [startChecks, spiXchgChecks, firstStop_cons, exclusion_of_free free, other])
  · exact exec_stop (.fault .spiDisabled) first
      (by simp [startChecks, spiXchgChecks, firstStop_cons, exclusion_of_free free, command, off])
  · exact exec_stop (.fault .spiTxFull) first
      (by simp [startChecks, spiXchgChecks, firstStop_cons, exclusion_of_free free, command, on, State.txe, full])
  · exact exec_begin first
      (by simp [startChecks, spiXchgChecks, firstStop_cons, exclusion_of_free free, command, on, State.txe, empty])
  · exact exec_act 0 .waitRx second (by simpa [Micro.ready, State.rxne, Option.isSome_iff_ne_none] using received)
  · exact exec_hold 0 .waitRx second (by simp [Micro.ready, State.rxne, none])
  · rw [exec_end 1 .takeResult third (by simp [Micro.ready, State.rxne, received]), Micro.act, received]
    rfl

end Sys2Proof.Proofs
end

section
/-! PROOF. The layout of the result words, bit by bit (spec/30_encoding.md R99). -/

namespace Sys2Proof.Machine

/-! ### One bit of a word -/

theorem bitAt_getLsbD {n : Nat} (hn : n < 32) (b : Bool) (i : Nat) : (bitAt n b).getLsbD i = (decide (i = n) && b) := by
  cases b with
  | false => simp [bitAt]
  | true =>
    simp only [bitAt, if_true, BitVec.getLsbD_shiftLeft, BitVec.getLsbD_one]
    grind

/-- A word below 2^n has no bit from n on. -/
theorem getLsbD_of_toNat_lt {v : Word} {n i : Nat} (h : v.toNat < 2 ^ n) (hi : n ≤ i) : v.getLsbD i = false := by
  rw [← BitVec.testBit_toNat]
  exact Nat.testBit_lt_two_pow (Nat.lt_of_lt_of_le h (Nat.pow_le_pow_right (by decide) hi))

theorem DmaState.code_getLsbD (q : DmaState) {i : Nat} (hi : 3 ≤ i) : q.code.getLsbD i = false :=
  getLsbD_of_toNat_lt (by cases q <;> decide) hi

theorem SeqState.code_getLsbD (q : SeqState) {i : Nat} (hi : 2 ≤ i) : q.code.getLsbD i = false :=
  getLsbD_of_toNat_lt (by cases q <;> decide) hi

theorem Profile.code_getLsbD (q : Profile) {i : Nat} (hi : 2 ≤ i) : q.code.getLsbD i = false :=
  getLsbD_of_toNat_lt (by cases q <;> decide) hi

/-! ### The words' bits -/

theorem State.readyWord_getLsbD (s : State) (i : Nat) : s.readyWord.getLsbD i = (decide (i = 0) && s.ready) :=
  bitAt_getLsbD (by decide) _ _

/-- NDT from bit 16, STATE from bit 9, EN at bit 8, SR from bit 0. -/
theorem State.statusWord_getLsbD (s : State) {i : Nat} (hi : i < 32) :
    s.statusWord.getLsbD i =
      (!decide (i < 16) && s.dma.ndt.getLsbD (i - 16) || !decide (i < 9) && s.dma.state.code.getLsbD (i - 9) ||
        decide (i = 8) && s.dma.en || s.dma.sr.getLsbD i) := by
  have inside : i - 16 < 32 := by omega
  simp only [statusWord, BitVec.getLsbD_or, BitVec.getLsbD_shiftLeft, BitVec.getLsbD_setWidth,
    bitAt_getLsbD (n := 8) (by decide), hi, inside, decide_true, Bool.true_and]

/-- seq.STATE from bit 0, PROFILE from bit 4, and a flag at each of the bits 8 to 16. -/
theorem State.blockWord_getLsbD (s : State) {i : Nat} (hi : i < 32) :
    s.blockWord.getLsbD i =
      (s.seq.state.code.getLsbD i || !decide (i < 4) && s.spi.profile.code.getLsbD (i - 4) ||
        decide (i = 8) && s.spi.spe || decide (i = 9) && s.bsy || decide (i = 10) && s.spi.txDmaEn ||
        decide (i = 11) && s.rxne || decide (i = 12) && s.line.cs || decide (i = 13) && s.line.dc ||
        decide (i = 14) && s.line.rst || decide (i = 15) && s.irq.masked || decide (i = 16) && s.irq.srcEn) := by
  have flag {n : Nat} (hn : n < 32) (b : Bool) := bitAt_getLsbD hn b i
  simp only [blockWord, BitVec.getLsbD_or, BitVec.getLsbD_shiftLeft, hi, decide_true, Bool.true_and,
    flag (show 8 < 32 by decide), flag (show 9 < 32 by decide), flag (show 10 < 32 by decide), flag (show 11 < 32 by decide),
    flag (show 12 < 32 by decide), flag (show 13 < 32 by decide), flag (show 14 < 32 by decide),
    flag (show 15 < 32 by decide), flag (show 16 < 32 by decide)]

/-! ### Fields -/

/-- A field of a word is what its bits are. -/
theorem extractLsb'_eq_of_getLsbD {v : Word} {start len : Nat} {x : BitVec len}
    (h : ∀ i, i < len → v.getLsbD (start + i) = x.getLsbD i) : v.extractLsb' start len = x := by
  refine BitVec.eq_of_getLsbD_eq fun i hi => ?_
  rw [BitVec.getLsbD_extractLsb', h i hi, decide_eq_true hi, Bool.true_and]

section

variable (s : State)

theorem statusWord_sr : s.statusWord.extractLsb' 0 5 = s.dma.sr :=
  extractLsb'_eq_of_getLsbD fun i hi => by
    rw [s.statusWord_getLsbD (by omega)]
    grind

theorem statusWord_state : s.statusWord.extractLsb' 9 3 = s.dma.state.code.setWidth 3 :=
  extractLsb'_eq_of_getLsbD fun i hi => by
    rw [s.statusWord_getLsbD (by omega), BitVec.getLsbD_setWidth]
    have out : s.dma.sr.getLsbD (9 + i) = false := BitVec.getLsbD_of_ge _ _ (by omega)
    grind

theorem statusWord_ndt : s.statusWord.extractLsb' 16 16 = s.dma.ndt :=
  extractLsb'_eq_of_getLsbD fun i hi => by
    rw [s.statusWord_getLsbD (by omega)]
    have out : s.dma.sr.getLsbD (16 + i) = false := BitVec.getLsbD_of_ge _ _ (by omega)
    have high : s.dma.state.code.getLsbD (16 + i - 9) = false := s.dma.state.code_getLsbD (by omega)
    grind

theorem statusWord_reserved : s.statusWord.extractLsb' 5 3 = 0 ∧ s.statusWord.extractLsb' 12 4 = 0 := by
  constructor <;> refine extractLsb'_eq_of_getLsbD fun i hi => ?_
  · have out : s.dma.sr.getLsbD (5 + i) = false := BitVec.getLsbD_of_ge _ _ (by omega)
    rw [s.statusWord_getLsbD (by omega), out]
    grind
  · have out : s.dma.sr.getLsbD (12 + i) = false := BitVec.getLsbD_of_ge _ _ (by omega)
    have high : s.dma.state.code.getLsbD (12 + i - 9) = false := s.dma.state.code_getLsbD (by omega)
    rw [s.statusWord_getLsbD (by omega), out, high]
    grind

theorem blockWord_seq : s.blockWord.extractLsb' 0 2 = s.seq.state.code.setWidth 2 :=
  extractLsb'_eq_of_getLsbD fun i hi => by
    rw [s.blockWord_getLsbD (by omega), BitVec.getLsbD_setWidth]
    grind

theorem blockWord_profile : s.blockWord.extractLsb' 4 2 = s.spi.profile.code.setWidth 2 :=
  extractLsb'_eq_of_getLsbD fun i hi => by
    have low : s.seq.state.code.getLsbD (4 + i) = false := s.seq.state.code_getLsbD (by omega)
    rw [s.blockWord_getLsbD (by omega), BitVec.getLsbD_setWidth, low]
    grind

theorem blockWord_reserved :
    s.blockWord.extractLsb' 2 2 = 0 ∧ s.blockWord.extractLsb' 6 2 = 0 ∧ s.blockWord.extractLsb' 17 15 = 0 := by
  refine ⟨?_, ?_, ?_⟩ <;> refine extractLsb'_eq_of_getLsbD fun i hi => ?_
  · have low : s.seq.state.code.getLsbD (2 + i) = false := s.seq.state.code_getLsbD (by omega)
    rw [s.blockWord_getLsbD (by omega), low]
    grind
  · have low : s.seq.state.code.getLsbD (6 + i) = false := s.seq.state.code_getLsbD (by omega)
    have mid : s.spi.profile.code.getLsbD (6 + i - 4) = false := s.spi.profile.code_getLsbD (by omega)
    rw [s.blockWord_getLsbD (by omega), low, mid]
    grind
  · have low : s.seq.state.code.getLsbD (17 + i) = false := s.seq.state.code_getLsbD (by omega)
    have mid : s.spi.profile.code.getLsbD (17 + i - 4) = false := s.spi.profile.code_getLsbD (by omega)
    rw [s.blockWord_getLsbD (by omega), low, mid]
    grind

/-- From bit 8 on the block status word holds flags only. -/
theorem blockWord_flag {i : Nat} (low : 8 ≤ i) (high : i < 32) :
    s.blockWord.getLsbD i =
      (decide (i = 8) && s.spi.spe || decide (i = 9) && s.bsy || decide (i = 10) && s.spi.txDmaEn ||
        decide (i = 11) && s.rxne || decide (i = 12) && s.line.cs || decide (i = 13) && s.line.dc ||
        decide (i = 14) && s.line.rst || decide (i = 15) && s.irq.masked || decide (i = 16) && s.irq.srcEn) := by
  have seq : s.seq.state.code.getLsbD i = false := s.seq.state.code_getLsbD (by omega)
  have profile : s.spi.profile.code.getLsbD (i - 4) = false := s.spi.profile.code_getLsbD (by omega)
  rw [s.blockWord_getLsbD high, seq, profile, Bool.and_false, Bool.false_or, Bool.false_or]

end

end Sys2Proof.Machine

namespace Sys2Proof.Proofs

open Sys2Proof.Machine

/-- Settles O27: each field by its bits, the three codes by their values. -/
theorem resultWords : Obligations.ResultWords := by
  unfold Obligations.ResultWords
  intro s
  obtain ⟨status5, status12⟩ := statusWord_reserved s
  obtain ⟨block2, block6, block17⟩ := blockWord_reserved s
  refine ⟨?_, ?_, statusWord_sr s, status5, ?_, ?_, status12, statusWord_ndt s, ?_, block2, ?_, block6, ?_, ?_, ?_, ?_, ?_, ?_,
    ?_, ?_, ?_, block17⟩
  · rw [State.readyWord_getLsbD, State.ready]
    rfl
  · exact extractLsb'_eq_of_getLsbD fun i hi => by rw [State.readyWord_getLsbD]; grind
  · have out : s.dma.sr.getLsbD 8 = false := BitVec.getLsbD_of_ge _ _ (by decide)
    rw [s.statusWord_getLsbD (by decide), out]
    simp
  · rw [statusWord_state]
    cases s.dma.state <;> rfl
  · rw [blockWord_seq]
    cases s.seq.state <;> rfl
  · rw [blockWord_profile]
    cases s.spi.profile <;> rfl
  all_goals
    rw [blockWord_flag s (by decide) (by decide)]
    simp [State.bsy, State.rxne]

end Sys2Proof.Proofs
end

section
/-! PROOF. The commands with operands: DMA.CONFIG, MEM.WR16 and the window and fill commands at µ1; the result rule, the error
step, and SEQ.FILLCTR as SEQ.FILLWIN (spec/40_dma.md R120, R133; spec/43_control.md R220, R231; spec/42_sequencer.md R193 to
R198). -/

namespace Sys2Proof.Machine

/-! ### MEM.WR16 (R231) -/

theorem admits_two (p : Params) (a : Word) : p.admits a 2 = (p.ramByte a && p.ramByte (a + 1)) := by
  simp [Params.admits, List.range_succ]

/-- A half-word's bytes, least significant first. -/
theorem toBytesLE_half (v : Half) : toBytesLE 2 v.toNat = [v.extractLsb' 0 8, v.extractLsb' 8 8] := by
  have low : BitVec.ofNat 8 v.toNat = v.extractLsb' 0 8 := by simp [BitVec.extractLsb']
  have high : BitVec.ofNat 8 (v.toNat / 256) = v.extractLsb' 8 8 := by
    simp [BitVec.extractLsb', Nat.shiftRight_eq_div_pow]
  simp [toBytesLE, low, high]

/-- The two bytes at an address and at the one after it. -/
theorem bytesFrom_two (m : Memory) (a : Word) : bytesFrom m a 2 = [Memory.read m a.toNat, Memory.read m (a + 1).toNat] := by
  rw [bytesFrom_succ, bytesFrom_succ]
  rfl

/-- The bytes a half-word is stored as, in the order of memory (R72). -/
theorem State.bytesFrom_memWrite_half {s : State} (a : Word) (v : Half) (canonical : Memory.wf s.mem = true) :
    bytesFrom (s.memWrite a 2 v.toNat).mem a 2 = inOrder s.par.memOrder [v.extractLsb' 0 8, v.extractLsb' 8 8] := by
  have stored := bytesFrom_storeBytes (a := a) (bs := inOrder s.par.memOrder (toBytesLE 2 v.toNat)) canonical
    (by rw [storedBytes_length]; decide)
  rw [storedBytes_length] at stored
  rw [State.memWrite_mem, stored, toBytesLE_half]

/-! ### The result rule (R220) -/

theorem spiXchg_of_takeResult {i : Instr} (h : Micro.takeResult ∈ i.laterSteps) : ∃ b, i = .spiXchg b := by
  have window (w : Window) : Micro.takeResult ∉ windowBytes w := not_mem_windowBytes rfl
  cases i
  case spiXchg b => exact ⟨b, rfl⟩
  all_goals simp [Instr.laterSteps, disableSeq, fillWindowSteps, fillSteps, enableSeq, window] at h

/-- `t` has RES of `s`, and nothing in its trace since is a result. -/
def NoResult (s t : State) : Prop :=
  t.res = s.res ∧ ∃ es : List Event, t.trace = s.trace ++ es ∧ ∀ v : Word, Event.result v ∉ es

theorem NoResult.of_eq {s t : State} (res : t.res = s.res) (trace : t.trace = s.trace) : NoResult s t :=
  ⟨res, [], by simp [trace], by simp⟩

theorem startEffect_result (i : Instr) (s : State) :
    ((startEffect i s).trace = s.trace ++ [.result (startEffect i s).res] ∧
      ((∃ stream, i = .dmaIsReady stream) ∨ (∃ stream, i = .dmaStatus stream) ∨ (∃ b, i = .spiXchg b) ∨ i = .seqState)) ∨
    NoResult s (startEffect i s) := by
  cases i
  case dmaIsReady stream => exact .inl ⟨rfl, .inl ⟨stream, rfl⟩⟩
  case dmaStatus stream => exact .inl ⟨rfl, .inr (.inl ⟨stream, rfl⟩)⟩
  case seqState => exact .inl ⟨rfl, .inr (.inr (.inr rfl))⟩
  case irqEnable =>
    refine .inr ?_
    simp only [startEffect, State.enableSource]
    split <;> exact .of_eq rfl rfl
  case dmaConfig =>
    refine .inr ?_
    simp only [startEffect]
    split <;> exact .of_eq rfl rfl
  case lineSet l | lineClear l => cases l <;> exact .inr (.of_eq rfl rfl)
  all_goals exact .inr (.of_eq rfl rfl)

theorem Micro.act_result {m : Micro} {s : State} (ready : m.ready s = true) :
    (m = .takeResult ∧ (m.act s).trace = s.trace ++ [.result (m.act s).res]) ∨ NoResult s (m.act s) := by
  cases m
  case takeResult =>
    obtain ⟨v, received⟩ : ∃ v, s.spi.rxBuf = some v := Option.isSome_iff_exists.1 ready
    refine .inl ⟨rfl, ?_⟩
    simp only [act, received]
    rfl
  all_goals exact .inr (.of_eq rfl rfl)

/-- The teardown emits hooks only (R246). -/
theorem NoResult.teardownStep {j j' : Nat} {status : BitVec 5} {r : Half} {s v : State}
    (h : TeardownNext status r s j j' v) : NoResult s v := by
  cases h
  case h1 =>
    rw [serviceErrors_eq]
    exact ⟨rfl, _, rfl, fun v => by split <;> simp⟩
  case h2Guarded | h2Unguarded =>
    rw [clearCompletion_eq]
    exact .of_eq rfl rfl
  case h10 => exact ⟨rfl, _, rfl, fun v => by unfold hookEvents; split <;> simp⟩
  all_goals exact .of_eq rfl rfl

/-! ### The error step (R133) -/

/-- Two draws change the inputs only. -/
theorem State.drawByte_twice (s : State) :
    s.drawByte.2.drawByte.2 = { s with inp := s.drawByte.2.drawByte.2.inp } := by
  have first := s.drawByte_eq
  have second := s.drawByte.2.drawByte_eq
  generalize s.drawByte.2 = t at first second ⊢
  generalize t.drawByte.2 = u at second ⊢
  rw [second, first]

theorem byteToError_cases (b : Byte) : byteToError b = .te ∨ byteToError b = .dme ∨ byteToError b = .fe := by
  unfold byteToError
  split <;> simp

/-! ### The window and fill commands at µ1 (R193, R195, R196, R198) -/

/-- The sequencer is neither in Idle nor in WindowSet exactly while a fill is under way. -/
theorem seqState_check (s : State) :
    (s.seq.state ≠ .idle ∧ s.seq.state ≠ .windowSet) ↔ s.fillUnderWay := by
  unfold State.fillUnderWay
  cases s.seq.state <;> simp

theorem countCheck_of_le {w : Window} (small : w.pixelCount ≤ 65535) : decide (Config.countMax < w.pixelCount) = false :=
  decide_eq_false (Nat.not_lt.2 small)

theorem countCheck_of_lt {w : Window} (large : 65535 < w.pixelCount) : decide (Config.countMax < w.pixelCount) = true :=
  decide_eq_true large

/-- What the link checks answer, in order. -/
theorem windowLinkChecks_stop (s : State) :
    (s.spi.profile ≠ .command → firstStop (windowLinkChecks s) = some (.fault .spiMode)) ∧
    (s.spi.profile = .command → s.spi.spe = false → firstStop (windowLinkChecks s) = some (.fault .spiDisabled)) ∧
    (s.spi.profile = .command → s.spi.spe = true → s.spi.txBuf ≠ none →
      firstStop (windowLinkChecks s) = some (.fault .spiTxFull)) ∧
    (s.linkReady → firstStop (windowLinkChecks s) = none) := by
  refine ⟨fun other => ?_, fun command off => ?_, fun command on full => ?_, fun ready => ?_⟩
  · simp [windowLinkChecks, firstStop_cons, other]
  · simp [windowLinkChecks, firstStop_cons, command, off]
  · simp [windowLinkChecks, firstStop_cons, command, on, State.txe, full]
  · simp [windowLinkChecks, firstStop_cons, ready.commandMode, ready.enabled, State.txe, ready.txEmpty]

theorem notReadyCheck_of_busy {s : State} (busy : s.dma.en = true ∨ s.dma.ndt ≠ 0) :
    notReadyCheck s = (true, .fault .notReady) := by
  rcases busy with on | left
  · simp [notReadyCheck, on]
  · rw [notReadyCheck, bne_iff_ne.2 left, Bool.or_true]

theorem notReadyCheck_of_off {s : State} (off : s.dma.en = false) (zero : s.dma.ndt = 0) :
    notReadyCheck s = (false, .fault .notReady) := by
  simp [notReadyCheck, off, zero]

/-- What the buffer checks answer, in order. -/
theorem bufferChecks_stop (s : State) (buf : Word) (n : Half) :
    (buf.toNat % 2 = 1 → firstStop (bufferChecks s buf n) = some (.fault .align)) ∧
    (buf.toNat % 2 = 0 → s.par.burstOk.admits buf n .half = false →
      firstStop (bufferChecks s buf n) = some (.fault .burst)) ∧
    (buf.toNat % 2 = 0 → s.par.burstOk.admits buf n .half = true → firstStop (bufferChecks s buf n) = none) := by
  refine ⟨fun odd => ?_, fun even bad => ?_, fun even good => ?_⟩
  · simp [bufferChecks, firstStop_cons, odd]
  · simp [bufferChecks, firstStop_cons, even, bad]
  · simp [bufferChecks, firstStop_cons, even, good]

/-- SEQ.FILLWIN's checks from the link's on, once the count fits. -/
theorem firstStop_fillWindowChecks {s : State} {w : Window} (buf : Word) (small : w.pixelCount ≤ 65535) :
    firstStop (fillWindowChecks s w buf) =
      (firstStop (windowLinkChecks s)).or
        ((firstStop [notReadyCheck s]).or (firstStop (bufferChecks s buf (BitVec.ofNat 16 w.pixelCount)))) := by
  simp only [fillWindowChecks, firstStop_append, firstStop_cons, countCheck_of_le small, Bool.false_eq_true, if_false,
    firstStop_nil, Option.none_or, Option.or_assoc]

/-- The two fill entry points for a window, from Idle (R196, R198). -/
def FillsWindow (i : Instr) (w : Window) (buf : Word) : Prop :=
  i = .seqFillWin w buf ∨ ∃ wd ht : Half, i = .seqFillCtr wd ht buf ∧ centerSizeValid wd ht = true ∧ w = centeredWindow wd ht

/-- In Idle, for a valid window, the checks of both entry points are those from F_COUNT on. -/
theorem FillsWindow.firstStop {i : Instr} {w : Window} {buf : Word} {s : State} (h : FillsWindow i w buf)
    (idle : s.seq.state = .idle) (valid : w.valid = true) :
    firstStop (startChecks i s) = Machine.firstStop (fillWindowChecks s w buf) := by
  have passed : idleCheck s = (false, .fault .seqState) := by simp [idleCheck, idle]
  rcases h with rfl | ⟨wd, ht, rfl, size, rfl⟩
  · simp [startChecks, passed, valid, firstStop_cons]
  · simp [startChecks, passed, size, firstStop_cons]

theorem FillsWindow.begins {i : Instr} {w : Window} {buf : Word} {s : State} (h : FillsWindow i w buf) (first : s.fg.k = 1)
    (pass : Machine.firstStop (startChecks i s) = none) : exec i s = .next (s.openWindow w).goOn := by
  rcases h with rfl | ⟨wd, ht, rfl, -, rfl⟩ <;> exact exec_begin first pass

theorem FillsWindow.stops {i : Instr} {w : Window} {buf : Word} {s : State} (h : FillsWindow i w buf) (how : Stop)
    (first : s.fg.k = 1) (stop : Machine.firstStop (startChecks i s) = some how) : exec i s = how.outcome := by
  rcases h with rfl | ⟨wd, ht, rfl, -, rfl⟩ <;> exact exec_stop how first stop

/-! ### SEQ.FILLCTR and SEQ.FILLWIN (R198) -/

/-- In every micro-step but the last the two answer alike: the same checks, the same effect, the same list. -/
theorem exec_seqFillCtr {s : State} {w h : Half} {buf : Word} (size : centerSizeValid w h = true) (early : s.fg.k ≠ 53) :
    exec (.seqFillCtr w h buf) s = exec (.seqFillWin (centeredWindow w h) buf) s := by
  match hk : s.fg.k with
  | 0 => rw [exec_zero hk, exec_zero hk]
  | 1 =>
    have same : startChecks (.seqFillCtr w h buf) s = startChecks (.seqFillWin (centeredWindow w h) buf) s := by
      simp only [startChecks, size, centeredWindow_valid size]
    rw [exec_start hk (by simp) (by simp), exec_start hk (by simp) (by simp), same]
    rfl
  | n + 2 =>
    have notLast : (n + 1 == (fillWindowSteps (centeredWindow w h) buf).length) = false := by
      have length : (fillWindowSteps (centeredWindow w h) buf).length = 52 := rfl
      rw [length, beq_eq_false_iff_ne]
      omega
    rw [exec_later hk (by simp), exec_later hk (by simp)]
    simp only [Instr.laterSteps, notLast]
    rfl

end Sys2Proof.Machine

namespace Sys2Proof.Proofs

open Sys2Proof.Machine

/-- Settles O16: the checks of R231, and the stored bytes by `bytesFrom_memWrite_half`. -/
theorem memWr16 : Obligations.MemWr16 := by
  unfold Obligations.MemWr16
  intro s v a first
  refine ⟨fun odd => ?_, fun even refused => ?_, fun even low high => ?_⟩
  · exact exec_stop (.fault .align) first (by simp [startChecks, memWr16Checks, firstStop_cons, odd])
  · have refused : s.par.admits a 2 = false := by
      rw [admits_two]
      rcases refused with h | h <;> simp only [h, Bool.false_and, Bool.and_false]
    exact exec_stop (.fault .mem) first (by simp [startChecks, memWr16Checks, firstStop_cons, even, refused])
  · have admitted : s.par.admits a 2 = true := by rw [admits_two, low, high, Bool.and_self]
    refine ⟨(s.memWrite a 2 v.toNat).mem,
      exec_only first (by simp [startChecks, memWr16Checks, firstStop_cons, even, admitted]), fun canonical => ?_⟩
    have stored := State.bytesFrom_memWrite_half a v canonical
    rw [bytesFrom_two] at stored
    refine ⟨Memory.wf_storeBytes canonical, fun little => ?_, fun big => ?_, fun x other next => ?_⟩
    · simpa [little, inOrder] using stored
    · simpa [big, inOrder] using stored
    · refine State.read_memWrite_other v.toNat canonical fun i hi => ?_
      obtain rfl | rfl : i = 0 ∨ i = 1 := by omega
      · simpa using other
      · exact next

/-- Settles O21: `startEffect_result` for µ1, `Micro.act_result` for a later micro-step, and no other step gives a result. -/
theorem resultRule : Obligations.ResultRule := by
  unfold Obligations.ResultRule
  intro i s t h
  cases exec_next h with
  | hold h => exact .inr (NoResult.of_eq (by rw [h]) (by rw [h]))
  | start hk pass h =>
    rw [h]
    exact startEffect_result i s
  | later n m hk hm ready h =>
    rw [h]
    rcases Micro.act_result ready with ⟨rfl, result⟩ | none
    · exact .inl ⟨result, .inr (.inr (.inl (spiXchg_of_takeResult (List.mem_of_getElem? hm))))⟩
    · exact .inr none
  | halt hi hk h =>
    rw [h]
    exact .inr ⟨rfl, [.halt], rfl, by simp⟩
  | handshake hi h =>
    rcases handshake_next h with rfl | ⟨-, rfl⟩ | ⟨-, rfl⟩ | ⟨-, rfl⟩ | ⟨j', v, -, -, step, rfl⟩
    case inr.inr.inr.inr =>
      have none : NoResult s v := .teardownStep (teardownStep_next step)
      exact .inr none
    all_goals exact .inr (NoResult.of_eq rfl rfl)

/-- Settles O24: the width and the burst named, the checks in the order of R120; a reserved code names none. -/
theorem dmaConfig : Obligations.DmaConfig := by
  unfold Obligations.DmaConfig
  refine ⟨fun s c e b src dst n first free width burst => ?_, fun s stream c src dst n first reserved => ?_⟩
  · have width : ElemSize.ofCode c.esize = some e := by
      rcases width with ⟨h, rfl⟩ | ⟨h, rfl⟩ | ⟨h, rfl⟩ <;> rw [h] <;> rfl
    have burst : Burst.ofCode c.burst = some b := by
      rcases burst with ⟨h, rfl⟩ | ⟨h, rfl⟩ <;> rw [h] <;> rfl
    have checks : startChecks (.dmaConfig s.par.streamId c src dst n) s =
        [(false, .fault .badStream), (false, .fault .fgStreaming), (s.dma.en, .fault .dmaBusy),
          (dst != s.par.spiDrAddr, .refuse .dst), (src.toNat % e.bytes != 0, .fault .align),
          (decide (b = .four) && !c.fen, .fault .burst),
          (decide (b = .four) && !s.par.burstOk.admits src n e, .fault .burst)] := by
      rw [startChecks_dmaConfig src dst n width burst, dmaConfigChecks, wrongStream_self, exclusion_of_free free]
      rfl
    refine ⟨fun on => ?_, fun off other => ?_, fun off same odd => ?_, fun off same even four bad => ?_,
      fun off same even good => ?_⟩
    · exact exec_stop (.fault .dmaBusy) first (by rw [checks]; simp [firstStop_cons, on])
    · exact exec_stop (.refuse .dst) first (by rw [checks]; simp [firstStop_cons, off, other])
    · exact exec_stop (.fault .align) first (by rw [checks]; simp [firstStop_cons, off, same, odd])
    · refine exec_stop (.fault .burst) first ?_
      rw [checks]
      rcases bad with h | h <;> simp [firstStop_cons, off, same, even, four, h]
    · have pass : firstStop (startChecks (.dmaConfig s.par.streamId c src dst n) s) = none := by
        rw [checks]
        rcases good with h | ⟨fen, ok⟩
        · simp [firstStop_cons, off, same, even, h]
        · simp [firstStop_cons, off, same, even, fen, ok]
      rw [exec_only first pass]
      simp only [startEffect, width, burst, State.configure, configDescriptor, off]
      rfl
  · refine exec_stop (.fault .reserved) first ?_
    have unnamed : ElemSize.ofCode c.esize = none ∨ Burst.ofCode c.burst = none := by
      by_contra named
      simp only [not_or, ← Option.isSome_iff_ne_none, ElemSize.ofCode_isSome, Burst.ofCode_isSome] at named
      have legal : c.wf = true := by rw [Ctrl.wf, Ctrl.esizeLegal, Ctrl.burstLegal, named.1, named.2, Bool.and_self]
      exact nomatch reserved.symm.trans legal
    simp only [startChecks]
    rcases unnamed with h | h <;> rw [h]
    · rfl
    · cases ElemSize.ofCode c.esize <;> rfl

/-- Settles O32: the flag and the stop that the two draws stand for. -/
theorem errorStep : Obligations.ErrorStep := by
  unfold Obligations.ErrorStep
  refine fun s => ⟨errorStep_of_not_running, fun running => ?_⟩
  refine ⟨byteToError s.drawByte.1, byteToBool s.drawByte.2.drawByte.1, s.drawByte.2.drawByte.2.inp,
    byteToError_cases _, ?_⟩
  simp only [Machine.errorStep, if_pos running]
  rw [s.drawByte_twice]
  rfl

/-- Settles O42. -/
theorem seqWindow : Obligations.SeqWindow := by
  unfold Obligations.SeqWindow
  have checks (s : State) (w : Window) : firstStop (startChecks (.seqWindow w) s) =
      (firstStop [(decide (s.seq.state ≠ .idle ∧ s.seq.state ≠ .windowSet), .fault .seqState), (!w.valid, .fault .window),
        (decide (Config.countMax < w.pixelCount), .fault .count)]).or (firstStop (windowLinkChecks s)) :=
    firstStop_append _ _
  have free {s : State} (h : ¬ s.fillUnderWay) : decide (s.seq.state ≠ .idle ∧ s.seq.state ≠ .windowSet) = false :=
    decide_eq_false (mt (seqState_check s).1 h)
  have passed {s : State} {w : Window} (h : ¬ s.fillUnderWay) (valid : w.valid = true) (small : w.pixelCount ≤ 65535) :
      firstStop (startChecks (.seqWindow w) s) = firstStop (windowLinkChecks s) := by
    rw [checks, firstStop_cons, free h, firstStop_cons, valid, firstStop_cons, countCheck_of_le small]
    rfl
  refine ⟨fun s w first => ⟨fun fill => ?_, fun out invalid => ?_, fun out valid large => ?_, fun out valid small other => ?_,
    fun out valid small command off => ?_, fun out valid small command on full => ?_⟩,
    fun s w first out valid small ready => ?_⟩
  · refine exec_stop (.fault .seqState) first ?_
    rw [checks, firstStop_cons, decide_eq_true ((seqState_check s).2 fill)]
    rfl
  · refine exec_stop (.fault .window) first ?_
    rw [checks, firstStop_cons, free out, firstStop_cons, invalid]
    rfl
  · refine exec_stop (.fault .count) first ?_
    rw [checks, firstStop_cons, free out, firstStop_cons, valid, firstStop_cons, countCheck_of_lt large]
    rfl
  · exact exec_stop (.fault .spiMode) first ((passed out valid small).trans ((windowLinkChecks_stop s).1 other))
  · exact exec_stop (.fault .spiDisabled) first
      ((passed out valid small).trans ((windowLinkChecks_stop s).2.1 command off))
  · exact exec_stop (.fault .spiTxFull) first
      ((passed out valid small).trans ((windowLinkChecks_stop s).2.2.1 command on full))
  · exact exec_begin first ((passed out valid small).trans ((windowLinkChecks_stop s).2.2.2 ready))

/-- Settles O44. -/
theorem seqFillBegins : Obligations.SeqFillBegins := by
  unfold Obligations.SeqFillBegins
  intro s buf first
  obtain ⟨odd_, bad_, good_⟩ := bufferChecks_stop s buf s.seq.pixCnt
  have passed (set : s.seq.state = .windowSet) (off : s.dma.en = false) (zero : s.dma.ndt = 0) :
      firstStop (startChecks (.seqFill buf) s) = firstStop (bufferChecks s buf s.seq.pixCnt) := by
    simp [startChecks, seqFillChecks, firstStop_cons, set, notReadyCheck_of_off off zero]
  refine ⟨fun other => ?_, fun set busy => ?_, fun set off zero odd => ?_, fun set off zero even bad => ?_,
    fun set ready => ?_⟩
  · exact exec_stop (.fault .seqState) first (by simp [startChecks, seqFillChecks, firstStop_cons, other])
  · exact exec_stop (.fault .notReady) first
      (by simp [startChecks, seqFillChecks, firstStop_cons, set, notReadyCheck_of_busy busy])
  · exact exec_stop (.fault .align) first ((passed set off zero).trans (odd_ odd))
  · exact exec_stop (.fault .burst) first ((passed set off zero).trans (bad_ even bad))
  · exact exec_begin first ((passed set ready.streamOff ready.countZero).trans (good_ ready.aligned ready.burst))

/-- Settles O46: the idle and window checks of each entry point, then the checks from F_COUNT on of both. -/
theorem fillWindow : Obligations.FillWindow := by
  unfold Obligations.FillWindow
  refine ⟨fun s w buf i first => ⟨fun wd ht => ⟨fun other => ?_, fun idle bad => ?_⟩, fun other => ?_, fun idle bad => ?_,
    fun fills idle valid => ?_⟩, fun s w buf i first fills idle valid small ready fill => ?_⟩
  · exact exec_stop (.fault .seqState) first (by simp [startChecks, idleCheck, firstStop_cons, other])
  · exact exec_stop (.fault .window) first (by simp [startChecks, idleCheck, firstStop_cons, idle, bad])
  · exact exec_stop (.fault .seqState) first (by simp [startChecks, idleCheck, firstStop_cons, other])
  · exact exec_stop (.fault .window) first (by simp [startChecks, idleCheck, firstStop_cons, idle, bad])
  · have checks := FillsWindow.firstStop fills idle valid
    have stops (how : Stop) (stop : firstStop (fillWindowChecks s w buf) = some how) : exec i s = how.outcome :=
      FillsWindow.stops fills how first (checks.trans stop)
    obtain ⟨mode, disabled, full, passed⟩ := windowLinkChecks_stop s
    obtain ⟨align, burst, -⟩ := bufferChecks_stop s buf (BitVec.ofNat 16 w.pixelCount)
    refine ⟨fun large => stops (.fault .count) ?_, fun small other => stops (.fault .spiMode) ?_,
      fun small command off => stops (.fault .spiDisabled) ?_, fun small command on tx => stops (.fault .spiTxFull) ?_,
      fun small ready busy => stops (.fault .notReady) ?_, fun small ready off zero odd => stops (.fault .align) ?_,
      fun small ready off zero even bad => stops (.fault .burst) ?_⟩
    · simp [fillWindowChecks, firstStop_cons, countCheck_of_lt large]
    · rw [firstStop_fillWindowChecks buf small, mode other]; rfl
    · rw [firstStop_fillWindowChecks buf small, disabled command off]; rfl
    · rw [firstStop_fillWindowChecks buf small, full command on tx]; rfl
    · rw [firstStop_fillWindowChecks buf small, passed ready, notReadyCheck_of_busy busy]; rfl
    · rw [firstStop_fillWindowChecks buf small, passed ready, notReadyCheck_of_off off zero, align odd]; rfl
    · rw [firstStop_fillWindowChecks buf small, passed ready, notReadyCheck_of_off off zero, burst even bad]; rfl
  · refine FillsWindow.begins fills first ((FillsWindow.firstStop fills idle valid).trans ?_)
    rw [firstStop_fillWindowChecks buf small, (windowLinkChecks_stop s).2.2.2 ready,
      notReadyCheck_of_off fill.streamOff fill.countZero, (bufferChecks_stop s buf _).2.2 fill.aligned fill.burst]
    rfl

/-- Settles O47: `exec_seqFillCtr`, and the last micro-step of each. -/
theorem fillCtrIsFillWin : Obligations.FillCtrIsFillWin := by
  unfold Obligations.FillCtrIsFillWin
  exact fun s w h buf size => ⟨exec_seqFillCtr size, fun last =>
    ⟨exec_end 51 .restoreMask last rfl, exec_end 51 .restoreMask last rfl⟩⟩

end Sys2Proof.Proofs
end

section
/-! PROOF. Every run is weakly fair, and an active handler returns (spec/00_scope.md R9, spec/60_exceptions.md R242, R247). -/

namespace Sys2Proof.Machine

/-! ### Every schedule is fair (R9) -/

/-- Round after round ends: after some turns nothing is listed and any number of rounds have begun. -/
theorem Inputs.rounds_end (free : Nat → List Turn) (q : Inputs) (r : Nat) :
    ∃ p, r ≤ p ∧ (q.after free p).turns = [] ∧ (q.after free p).turnAt = q.turnAt + r := by
  induction r with
  | zero =>
    obtain ⟨played, -⟩ := Inputs.after_listed free q q.turns [] (by simp)
    exact ⟨q.turns.length, Nat.zero_le _, by rw [played], by rw [played, Nat.add_zero]⟩
  | succ r ih =>
    obtain ⟨p, late, empty, count⟩ := ih
    obtain ⟨round, listed⟩ : ∃ round, round = free (q.after free p).turnAt ++ [fairTurn (q.after free p).turnAt] := ⟨_, rfl⟩
    obtain ⟨played, -⟩ := Inputs.round free (q.after free p) empty round listed
    have long : 1 ≤ round.length := by simp [listed]
    refine ⟨p + round.length, by omega, ?_, ?_⟩
    · rw [Inputs.after_add, played]
      exact empty
    · rw [Inputs.after_add, played]
      show (q.after free p).turnAt + 1 = _
      omega

/-- The turn that closes a round of the schedule. -/
theorem Inputs.round_closes (free : Nat → List Turn) (q : Inputs) (r : Nat) :
    ∃ m, r ≤ m ∧ q.turnAfter free m = fairTurn (q.turnAt + r) := by
  obtain ⟨p, late, empty, count⟩ := q.rounds_end free r
  obtain ⟨-, played⟩ := Inputs.round free (q.after free p) empty _ rfl
  refine ⟨p + (free (q.after free p).turnAt).length, by omega, ?_⟩
  rw [Inputs.turnAfter_add, played _ (by simp), count]
  simp

/-- Each agent that fairness covers closes one round in six. -/
theorem exists_fairTurn {t : Turn} (covered : t ≠ .env) : ∃ c, c < 6 ∧ ∀ n, n % 6 = c → fairTurn n = t := by
  cases t
  case env => exact absurd rfl covered
  case fg => exact ⟨0, by decide, fun n h => by simp [fairTurn, h]⟩
  case hd => exact ⟨1, by decide, fun n h => by simp [fairTurn, h]⟩
  case ie => exact ⟨2, by decide, fun n h => by simp [fairTurn, h]⟩
  case deFetch => exact ⟨3, by decide, fun n h => by simp [fairTurn, h]⟩
  case deHandoff => exact ⟨4, by decide, fun n h => by simp [fairTurn, h]⟩
  case sh => exact ⟨5, by decide, fun n h => by simp [fairTurn, h]⟩

theorem isRun.fair {run : Nat → State} (h : isRun run) : fairSchedule fun n => (run n).takeTurn.1 := by
  intro t covered n
  obtain ⟨c, small, turn⟩ := exists_fairTurn covered
  obtain ⟨r, late, residue⟩ : ∃ r, n ≤ r ∧ ((run 0).inp.turnAt + r) % 6 = c :=
    ⟨6 * ((run 0).inp.turnAt + n) + c + 5 * (run 0).inp.turnAt, by omega, by omega⟩
  obtain ⟨m, later, closes⟩ := (run 0).inp.round_closes Config.freeTurns r
  exact ⟨m, by omega, by simp only [run_turn h, closes, turn _ residue]⟩

/-! ### How far a handler is from its return (R247) -/

/-- The steps of the teardown still to come, weighed so that the drain of a full link at H4 costs less than one of them. -/
def State.toReturn (s : State) : Nat :=
  match s.hd with
  | .inactive => 0
  | .active j _ _ => (12 - j) * 5 + if j = 4 then s.drainLeft else 0

theorem State.toReturn_of_active {s : State} {j : Nat} {status : BitVec 5} {r : Half} (active : s.hd = .active j status r) :
    s.toReturn = (12 - j) * 5 + if j = 4 then s.drainLeft else 0 := by
  simp only [toReturn, active]

theorem State.toReturn_of_inactive {s : State} (inactive : s.hd = .inactive) : s.toReturn = 0 := by
  simp only [toReturn, inactive]

/-- It reads the handler, and at H4 the link's buffers. -/
theorem State.toReturn_congr {s u : State} (hd : u.hd = s.hd)
    (drain : ∀ status r, s.hd = .active 4 status r → u.drainLeft = s.drainLeft) : u.toReturn = s.toReturn := by
  cases active : s.hd with
  | inactive => rw [State.toReturn_of_inactive active, State.toReturn_of_inactive (hd.trans active)]
  | active j status r =>
    rw [State.toReturn_of_active active, State.toReturn_of_active (hd.trans active)]
    by_cases waits : j = 4
    · subst waits
      rw [drain status r active]
    · rw [if_neg waits, if_neg waits]

/-- The agent whose step brings an active handler nearer to its return: the shifter while a full link is drained, else the handler. -/
def State.awaited (s : State) : Turn := if s.toReturn % 5 = 0 then .hd else .sh

/-- One turn of an active handler's machine: no agent takes it back, the awaited one brings it on. -/
structure Nearer (τ : Turn) (s u : State) : Prop where
  notBack : u.toReturn ≤ s.toReturn
  on : τ = s.awaited → u.toReturn < s.toReturn

theorem Nearer.of_same {τ : Turn} {s u : State} (same : u.toReturn = s.toReturn) (other : τ ≠ s.awaited) : Nearer τ s u :=
  ⟨Nat.le_of_eq same, fun turn => absurd turn other⟩

theorem State.awaited_ne {s : State} {τ : Turn} (hd : τ ≠ .hd) (sh : τ ≠ .sh) : τ ≠ s.awaited := by
  unfold awaited
  split
  · exact hd
  · exact sh

/-- At H4 the sequencer is Streaming, the link enabled and the stream complete (R245, R247). -/
theorem BlockInv.at_drain {s : State} (inv : BlockInv s) {status : BitVec 5} {r : Half} (active : s.hd = .active 4 status r) :
    s.spi.spe = true ∧ s.dma.state = .complete := by
  obtain ⟨-, -, at_⟩ := inv.teardown.handler 4 status r active
  obtain ⟨tc, streaming⟩ := at_.guarded (by decide) (by decide)
  exact ⟨(inv.enabledAt active streaming).resolve_right (by decide), at_.complete tc⟩

theorem State.awaited_eq_hd_iff {s : State} {j : Nat} {status : BitVec 5} {r : Half} (active : s.hd = .active j status r) :
    s.awaited = .hd ↔ (j = 4 → s.bsy = false) := by
  have few := s.drainLeft_le.1
  rw [awaited, State.toReturn_of_active active, ← s.drainLeft_eq_zero_iff]
  split <;> split <;> simp_all <;> omega

/-- The handler's step: it returns, goes on to a later step, or waits for a full link's drain. -/
theorem Nearer.handlerStep {s : State} (inv : BlockInv s) {j : Nat} {status : BitVec 5} {r : Half}
    (active : s.hd = .active j status r) : Nearer .hd s (handlerStep s) := by
  obtain ⟨low, high, at_⟩ := inv.teardown.handler j status r active
  have before := State.toReturn_of_active active
  by_cases last : j = 11
  · subst last
    have lt : (Machine.handlerStep s).toReturn < s.toReturn := by
      rw [handlerStep_H11 active, before, State.toReturn_of_inactive rfl]
      simp
    exact ⟨Nat.le_of_lt lt, fun _ => lt⟩
  cases step : teardownStep j status r s with
  | none =>
    have holds : Machine.handlerStep s = s := by simp only [Machine.handlerStep, active, if_neg last, step]
    rw [holds]
    refine .of_same rfl fun awaited => ?_
    have enabled := (teardownStep_isSome_iff low (by omega) status r s).2
      ⟨(State.awaited_eq_hd_iff active).1 awaited.symm, fun six => at_.disabled (by omega) (by omega), at_.enabled⟩
    simp [step] at enabled
  | some v =>
    obtain ⟨j', v⟩ := v
    have lt := (teardownStep_next step).lt
    have bounds := (teardownStep_next step).bounds
    have fewer : (Machine.handlerStep s).toReturn < s.toReturn := by
      rw [handlerStep_of_teardownStep active last step, before, State.toReturn_of_active rfl]
      have few := (State.drainLeft_le { v with hd := .active j' status r }).1
      split <;> split <;> omega
    exact ⟨Nat.le_of_lt fewer, fun _ => fewer⟩

/-- The shifter's step: at H4 it drains the link. -/
theorem Nearer.shifterStep {s : State} (inv : BlockInv s) {j : Nat} {status : BitVec 5} {r : Half}
    (active : s.hd = .active j status r) : Nearer .sh s (shifterStep s) := by
  obtain ⟨-, -, -, -, -, hd, -⟩ := shifterStep_keeps s
  by_cases waits : j = 4
  · subst waits
    obtain ⟨-, less, -⟩ := shifterStep_drains (inv.at_drain active).1
    have awaited := State.awaited_eq_hd_iff active
    have before := State.toReturn_of_active active
    have after := State.toReturn_of_active (hd.trans active)
    rw [if_pos rfl] at before after
    refine ⟨by omega, fun turn => ?_⟩
    have busy : s.drainLeft ≠ 0 := fun zero => by
      rw [awaited.2 fun _ => s.drainLeft_eq_zero_iff.1 zero] at turn
      cases turn
    omega
  · refine .of_same (State.toReturn_congr hd fun _ _ four => ?_) ?_
    · exact absurd (Handler.active.inj (active.symm.trans four)).1 waits
    · rw [(State.awaited_eq_hd_iff active).2 fun four => absurd four waits]
      decide

/-- The steps of DE and ENV leave the handler alone, and need a running stream. -/
theorem turnStep_engine {τ : Turn} {s u : State} (turn : τ = .deFetch ∨ τ = .deHandoff ∨ τ = .env)
    (h : turnStep τ s = .next u) : u.hd = s.hd ∧ (s.dma.state ≠ .running → u = s) := by
  rcases turn with rfl | rfl | rfl
  · obtain rfl := Host.Outcome.next.inj h
    refine ⟨?_, fun still => fetchStep_of_not_enabled (by simp [State.fetchEnabled_of_not_running still])⟩
    unfold fetchStep State.fetchElement
    simp only
    split
    · split <;> rfl
    · rfl
  · have handed : handoffStep s = .next u := h
    by_cases on : s.handoffEnabled = true
    · rw [handoffStep_of_enabled on] at handed
      split at handed
      · cases handed
      · rw [← Host.Outcome.next.inj handed, handElement_complete_eq]
        exact ⟨rfl, fun still => absurd (s.handoffEnabled_iff.1 on).1 still⟩
    · obtain rfl := Host.Outcome.next.inj ((handoffStep_of_not_enabled on).symm.trans handed)
      exact ⟨rfl, fun _ => rfl⟩
  · obtain rfl := Host.Outcome.next.inj h
    refine ⟨?_, errorStep_of_not_running⟩
    unfold errorStep
    simp only
    split
    · split <;> simp
    · rfl

theorem Nearer.of_engine {τ : Turn} {s u : State} (inv : BlockInv s) (turn : τ = .deFetch ∨ τ = .deHandoff ∨ τ = .env)
    (h : turnStep τ s = .next u) : Nearer τ s u := by
  obtain ⟨hd, still⟩ := turnStep_engine turn h
  refine .of_same (State.toReturn_congr hd fun status r active => ?_) ?_
  · rw [still (by simp [(inv.at_drain active).2])]
  · rcases turn with rfl | rfl | rfl <;> exact State.awaited_ne nofun nofun

theorem Nearer.of_turn {τ : Turn} {s u : State} (inv : BlockInv s) {j : Nat} {status : BitVec 5} {r : Half}
    (active : s.hd = .active j status r) (h : turnStep τ s = .next u) : Nearer τ s u := by
  cases τ
  case hd => exact Host.Outcome.next.inj h ▸ .handlerStep inv active
  case sh => exact Host.Outcome.next.inj h ▸ .shifterStep inv active
  case fg =>
    obtain rfl := Host.Outcome.next.inj ((foregroundStep_hold (.inr (by simp [active]))).symm.trans h)
    exact .of_same rfl (State.awaited_ne nofun nofun)
  case ie =>
    have held : entryStep s = s := if_neg fun taken => by
      obtain ⟨-, -, inactive, -⟩ := s.takeable_iff.1 taken
      simp [active] at inactive
    rw [← Host.Outcome.next.inj h, held]
    exact .of_same rfl (State.awaited_ne nofun nofun)
  case deFetch => exact .of_engine inv (.inl rfl) h
  case deHandoff => exact .of_engine inv (.inr (.inl rfl)) h
  case env => exact .of_engine inv (.inr (.inr rfl)) h

theorem Nearer.step {s t : State} (inv : Inv s) {j : Nat} {status : BitVec 5} {r : Half}
    (active : s.hd = .active j status r) (h : step s = .next t) : Nearer s.takeTurn.1 s t := by
  obtain ⟨-, -, block⟩ := (inv_iff _).1 inv.takeTurn
  obtain ⟨-, -, rfl⟩ := step_next h
  rcases liveStep_cases s with ⟨u, hu, e⟩ | ⟨f, stopped, e⟩ | ⟨r, stopped, e⟩ <;> rw [e]
  · have nearer : Nearer s.takeTurn.1 s.takeTurn.2 u := .of_turn block active hu
    have same : u.endOfStep.toReturn = u.toReturn :=
      State.toReturn_congr (by simp) fun _ _ _ => by simp [State.drainLeft]
    exact ⟨same ▸ nearer.notBack, fun turn => same ▸ nearer.on turn⟩
  · refine .of_same rfl (State.awaited_ne ?_ ?_) <;> intro turn <;> rw [turn] at stopped <;> cases stopped
  · refine .of_same rfl (State.awaited_ne ?_ ?_) <;> intro turn <;> rw [turn] at stopped <;> cases stopped

/-! ### Runs -/

theorem isRun.inv {run : Nat → State} (h : isRun run) (inv : Inv (run 0)) (n : Nat) : Inv (run n) := by
  induction n with
  | zero => exact inv
  | succ n ih => exact ih.step (h n)

theorem State.active_of_toReturn {s : State} (h : s.toReturn ≠ 0) : ∃ j status r, s.hd = .active j status r := by
  cases hd : s.hd with
  | inactive => exact absurd (State.toReturn_of_inactive hd) h
  | active j status r => exact ⟨j, status, r, rfl⟩

/-- An active handler comes nearer to its return: the awaited agent's turn comes, and no turn before it takes it back. -/
theorem isRun.comes_nearer {run : Nat → State} (h : isRun run) (inv : Inv (run 0)) {n : Nat} (active : (run n).toReturn ≠ 0) :
    ∃ m, (run m).toReturn < (run n).toReturn := by
  by_contra none
  simp only [not_exists, Nat.not_lt] at none
  have step (m : Nat) : Nearer (run m).takeTurn.1 (run m) (run (m + 1)) := by
    obtain ⟨j, status, r, on⟩ := State.active_of_toReturn (s := run m) (by have := none m; omega)
    exact .step (h.inv inv m) on (h m)
  have same (m : Nat) : (run (n + m)).toReturn = (run n).toReturn := by
    induction m with
    | zero => rfl
    | succ m ih => exact Nat.le_antisymm (ih ▸ (step (n + m)).notBack) (none _)
  have covered : (run n).awaited ≠ .env := by
    unfold State.awaited
    split <;> decide
  obtain ⟨m, late, turn⟩ := h.fair (run n).awaited covered n
  obtain ⟨d, rfl⟩ := Nat.exists_eq_add_of_le late
  have awaited : (run (n + d)).takeTurn.1 = (run (n + d)).awaited := by
    rw [State.awaited, same d]
    exact turn
  have less := (step (n + d)).on awaited
  rw [same d] at less
  exact Nat.not_lt.2 (none _) less

theorem isRun.returns {run : Nat → State} (h : isRun run) (inv : Inv (run 0)) (n : Nat) :
    ∃ m, (run m).hd = .inactive := by
  induction left : (run n).toReturn using Nat.strong_induction_on generalizing n with
  | _ left' ih =>
    by_cases active : (run n).toReturn = 0
    · refine ⟨n, ?_⟩
      cases hd : (run n).hd with
      | inactive => rfl
      | active j status r =>
        obtain ⟨-, high, -⟩ := ((inv_iff _).1 (h.inv inv n)).2.2.teardown.handler j status r hd
        rw [State.toReturn_of_active hd] at active
        omega
    · obtain ⟨m, less⟩ := h.comes_nearer inv active
      exact ih _ (left ▸ less) m rfl

end Sys2Proof.Machine

namespace Sys2Proof.Proofs

open Sys2Proof.Machine

/-- Settles O29: `isRun.fair` round by round, and `isRun.returns` by the steps still to come. -/
theorem everyRunIsWeaklyFair : Obligations.EveryRunIsWeaklyFair := by
  unfold Obligations.EveryRunIsWeaklyFair
  refine ⟨fun run h => ⟨h.fair, fun t covered n _ => h.fair t covered n⟩, fun run h inv _ => h.returns inv 0⟩

end Sys2Proof.Proofs
end

section
/-! PROOF. Runs under a listed schedule: turns put end to end, and the foreground inside a command (spec/00_scope.md R6, R7). -/

namespace Sys2Proof.Machine

/-! ### Turns played from a state -/

/-- Whatever is listed behind them, the turns `τs` take `s` to `u`. -/
def Plays (τs : List Turn) (s u : State) : Prop :=
  ∀ (ts : List Turn) (n : Nat), runSteps (τs.length + n) (s.scheduled (τs ++ ts)) = runSteps n (u.scheduled ts)

theorem Plays.nil (s : State) : Plays [] s s := fun ts n => by rw [List.length_nil, Nat.zero_add, List.nil_append]

theorem Plays.append {τs σs : List Turn} {s u v : State} (h : Plays τs s u) (h' : Plays σs u v) : Plays (τs ++ σs) s v := by
  intro ts n
  rw [List.length_append, Nat.add_assoc, List.append_assoc, h, h']

theorem Plays.cons {τ : Turn} {σs : List Turn} {s u v : State} (h : Plays [τ] s u) (h' : Plays σs u v) :
    Plays (τ :: σs) s v := h.append h'

/-- A run of exactly these turns. -/
theorem Plays.runSteps {τs : List Turn} {s u : State} (h : Plays τs s u) :
    runSteps τs.length (s.scheduled τs) = .next u := by
  have run := h [] 0
  rwa [Nat.add_zero, List.append_nil] at run

/-! ### The listed turns and the end of a step -/

theorem State.deliverRequest_of_running {s : State} (channel : s.dma.chsel = s.par.spiTxChannel)
    (running : s.dma.state = .running) : s.deliverRequest = { s with dma := { s.dma with req := true } } := by
  rw [deliverRequest, if_neg (not_not.2 channel), if_pos running]

theorem State.drawByte_scheduled (s : State) (ts : List Turn) :
    (s.scheduled ts).drawByte = (s.drawByte.1, s.drawByte.2.scheduled ts) := by
  unfold drawByte scheduled
  cases s.inp.bytes <;> rfl

theorem State.deliverRequest_scheduled (s : State) (ts : List Turn) :
    (s.scheduled ts).deliverRequest = s.deliverRequest.scheduled ts := by
  by_cases channel : s.dma.chsel = s.par.spiTxChannel
  · by_cases running : s.dma.state = .running
    · rw [State.deliverRequest_of_running channel running, State.deliverRequest_of_running (by exact channel) (by exact running)]
      rfl
    · rw [State.deliverRequest_of_not_running channel running,
        State.deliverRequest_of_not_running (by exact channel) (by exact running), State.drawByte_scheduled]
      rfl
  · rw [State.deliverRequest_of_other_channel channel, State.deliverRequest_of_other_channel (by exact channel)]

theorem State.endOfStep_scheduled (s : State) (ts : List Turn) :
    (s.scheduled ts).endOfStep = s.endOfStep.scheduled ts := by
  cases rising : s.gate && !s.spi.gPrev with
  | true =>
    simp only [Bool.and_eq_true, Bool.not_eq_true'] at rising
    rw [State.endOfStep_of_rising rising.1 rising.2, State.endOfStep_of_rising (by exact rising.1) (by exact rising.2),
      State.deliverRequest_scheduled]
    rfl
  | false =>
    have still : s.gate = false ∨ s.spi.gPrev = true := by simpa [Classical.or_iff_not_imp_left] using rising
    rw [State.endOfStep_of_not_rising still, State.endOfStep_of_not_rising (by exact still)]
    rfl

/-- One turn: the agent's step, then the end of the step. -/
theorem Plays.turn {τ : Turn} {s t : State} (hf : s.fault = none) (hr : s.refused = none)
    (h : ∀ ts, turnStep τ (s.scheduled ts) = .next (t.scheduled ts)) : Plays [τ] s t.endOfStep := by
  intro ts n
  have stepped : step (s.scheduled ([τ] ++ ts)) = .next (t.endOfStep.scheduled ts) := by
    rw [step_turn (s := s.scheduled ([τ] ++ ts)) (ts := ts ++ s.inp.turns) hf hr rfl (h ts), State.endOfStep_scheduled]
  rw [Nat.add_comm]
  exact runSteps_succ stepped

/-- One turn that leaves GPREV at the gate's value. -/
theorem Plays.turn_kept {τ : Turn} {s t : State} (hf : s.fault = none) (hr : s.refused = none)
    (h : ∀ ts, turnStep τ (s.scheduled ts) = .next (t.scheduled ts)) (kept : t.spi.gPrev = t.gate) : Plays [τ] s t := by
  have played := Plays.turn hf hr h
  rwa [State.endOfStep_kept kept] at played

/-! ### The shifter's and the handler's turns -/

theorem State.receive_scheduled (s : State) (ts : List Turn) : (s.scheduled ts).receive = s.receive.scheduled ts := by
  by_cases command : s.spi.profile = .command
  · rw [State.receive_of_command command, State.receive_of_command (by exact command), State.drawByte_scheduled]
    rfl
  · rw [State.receive_of_not_command command, State.receive_of_not_command (by exact command)]

theorem shifterStep_scheduled (s : State) (ts : List Turn) :
    shifterStep (s.scheduled ts) = (shifterStep s).scheduled ts := by
  cases on : s.spi.spe with
  | false => rw [shifterStep_of_hold (.inl on), shifterStep_of_hold (.inl (by exact on))]
  | true =>
    cases shifting : s.spi.shift with
    | some x =>
      rw [shifterStep_of_emit on shifting, shifterStep_of_emit (by exact on) (by exact shifting)]
      unfold State.emitFrame
      rw [← State.receive_scheduled]
      rfl
    | none =>
      cases waiting : s.spi.txBuf with
      | some f =>
        rw [shifterStep_of_load on shifting waiting, shifterStep_of_load (by exact on) (by exact shifting) (by exact waiting)]
        rfl
      | none =>
        rw [shifterStep_of_hold (.inr ⟨shifting, waiting⟩),
          shifterStep_of_hold (.inr ⟨by exact shifting, by exact waiting⟩)]

theorem Plays.shifter {s : State} (hf : s.fault = none) (hr : s.refused = none) : Plays [.sh] s (shifterStep s).endOfStep :=
  .turn hf hr fun ts => congrArg Host.Outcome.next (shifterStep_scheduled s ts)

/-! ### The foreground inside a command -/

/-- The foreground is free, and inside command `i` the micro-steps `ms` are still to come. -/
structure Inside (i : Instr) (ms : List Micro) (s : State) : Prop where
  free : s.fgFree
  fetch : s.fetch = .command i
  pending : s.pending = ms

/-- What the listed turns are is nothing to a micro-step. -/
theorem Micro.act_scheduled (m : Micro) (s : State) (ts : List Turn) : m.act (s.scheduled ts) = (m.act s).scheduled ts := by
  cases m
  case takeResult =>
    simp only [act, State.scheduled]
    split <;> rfl
  all_goals rfl

theorem Micro.ready_scheduled (m : Micro) (s : State) (ts : List Turn) : m.ready (s.scheduled ts) = m.ready s := by
  cases m <;> rfl

/-- The next micro-step, when it is ready. -/
theorem Inside.exec {i : Instr} {m : Micro} {ms : List Micro} {s : State} (h : Inside i (m :: ms) s)
    (ready : m.ready s = true) (ts : List Turn) :
    exec i (s.scheduled ts) = .next (((m.act s).advance (1 + i.operandWords) ms.isEmpty).scheduled ts) := by
  obtain ⟨i', n, fetch, hs, hk, hm⟩ := State.later_of_pending_head (s := s) (m := m) (by rw [h.pending]; rfl)
  obtain rfl : i' = i := Decoded.command.inj (fetch.symm.trans h.fetch)
  have rest : i'.laterSteps.drop (n + 1) = ms := by
    have listed := (State.pending_later fetch hk hm).symm.trans h.pending
    exact (List.cons.inj listed).2
  obtain ⟨inside, -⟩ := List.getElem?_eq_some_iff.1 hm
  have last : (n + 1 == i'.laterSteps.length) = ms.isEmpty := by
    rw [← rest, Bool.eq_iff_iff, beq_iff_eq, List.isEmpty_iff, List.drop_eq_nil_iff]
    omega
  rw [exec_later (s := s.scheduled ts) hk hs, hm]
  simp only [m.ready_scheduled, ready, if_true, m.act_scheduled, last]
  rfl

theorem Inside.turn {i : Instr} {m : Micro} {ms : List Micro} {s : State} (h : Inside i (m :: ms) s)
    (ready : m.ready s = true) (ts : List Turn) :
    turnStep .fg (s.scheduled ts) = .next (((m.act s).advance (1 + i.operandWords) ms.isEmpty).scheduled ts) :=
  (foregroundStep_free (s := s.scheduled ts) h.free.notHalted h.free.notPreempted h.fetch).trans (h.exec ready ts)

/-- What a step that leaves the foreground alone leaves of it. -/
theorem Inside.congr {i : Instr} {ms : List Micro} {s u : State} (h : Inside i ms s) (prog : u.prog = s.prog) (fg : u.fg = s.fg)
    (hd : u.hd = s.hd) (fault : u.fault = s.fault) (refused : u.refused = s.refused) : Inside i ms u where
  free := ⟨fault.trans h.free.noFault, refused.trans h.free.noRefusal, by rw [fg]; exact h.free.notHalted,
    hd.trans h.free.notPreempted⟩
  fetch := (State.fetch_congr prog (by rw [fg])).trans h.fetch
  pending := (State.pending_congr prog (by rw [fg]) (by rw [fg])).trans h.pending

theorem Inside.goOn {i : Instr} {m m' : Micro} {ms : List Micro} {s : State} (h : Inside i (m :: m' :: ms) s) :
    Inside i (m' :: ms) (m.act s).goOn := by
  obtain ⟨i', n, fetch, hs, hk, hm⟩ := State.later_of_pending_head (s := s) (m := m) (by rw [h.pending]; rfl)
  obtain rfl : i' = i := Decoded.command.inj (fetch.symm.trans h.fetch)
  obtain ⟨pc, k, prog, -, -, hd, -, fault, refused, halted⟩ := m.act_keeps s
  have rest : i'.laterSteps.drop (n + 1) = m' :: ms := by
    have listed := (State.pending_later fetch hk hm).symm.trans h.pending
    exact (List.cons.inj listed).2
  have notLast : (n + 1 == i'.laterSteps.length) = false := by
    rw [beq_eq_false_iff_ne]
    intro last
    rw [last, List.drop_length] at rest
    cases rest
  have after := State.pending_after_later fetch hk hm k prog pc 0
  rw [notLast, h.pending] at after
  exact
    { free := ⟨fault.trans h.free.noFault, refused.trans h.free.noRefusal, halted.trans h.free.notHalted,
        hd.trans h.free.notPreempted⟩
      fetch := (State.fetch_congr prog pc).trans fetch
      pending := after }

/-- A micro-step that goes on and leaves GPREV at the gate's value. -/
theorem Inside.plays {i : Instr} {m m' : Micro} {ms : List Micro} {s : State} (h : Inside i (m :: m' :: ms) s)
    (ready : m.ready s = true) (kept : (m.act s).spi.gPrev = (m.act s).gate) : Plays [.fg] s (m.act s).goOn :=
  .turn_kept h.free.noFault h.free.noRefusal (h.turn ready) kept

end Sys2Proof.Machine
end

section
/-! PROOF. SEQ.FILL run to its end (spec/42_sequencer.md R195, R201). -/

namespace Sys2Proof.Machine

/-! ### A stretch of micro-steps -/

/-- µ1 done: the rest of the command is to come. -/
theorem Inside.begun {i : Instr} {s : State} (free : s.fgFree) (fetch : s.fetch = .command i) (first : s.fg.k = 1)
    (more : i.laterSteps.isEmpty = false := by rfl) : Inside i i.laterSteps s.goOn where
  free := { free with }
  fetch := fetch
  pending := by
    have after := State.pending_after_start fetch first rfl rfl 0
    rwa [more] at after

/-- A micro-step of the command that is fetched. -/
theorem Plays.begins {i : Instr} {s u : State} (free : s.fgFree) (fetch : s.fetch = .command i)
    (h : ∀ ts, exec i (s.scheduled ts) = .next (u.scheduled ts)) (kept : u.spi.gPrev = u.gate) : Plays [.fg] s u :=
  .turn_kept free.noFault free.noRefusal
    (fun ts => (foregroundStep_free (s := s.scheduled ts) free.notHalted free.notPreempted fetch).trans (h ts)) kept

/-- What micro-steps performed one after the other make of the state. -/
def performed : List Micro → State → State
  | [], s => s
  | m :: ms, s => performed ms (m.act s).goOn

/-- Each of the micro-steps, in its turn, is ready and leaves GPREV at the gate's value. -/
def Steady : List Micro → State → Prop
  | [], _ => True
  | m :: ms, s => m.ready s = true ∧ (m.act s).spi.gPrev = (m.act s).gate ∧ Steady ms (m.act s).goOn

theorem Inside.plays_steady {i : Instr} {m : Micro} {ms rest : List Micro} {s : State} (h : Inside i (ms ++ m :: rest) s)
    (steady : Steady ms s) :
    Plays (List.replicate ms.length .fg) s (performed ms s) ∧ Inside i (m :: rest) (performed ms s) := by
  induction ms generalizing s with
  | nil => exact ⟨.nil s, h⟩
  | cons first ms ih =>
    obtain ⟨ready, kept, steady⟩ := steady
    obtain ⟨next, later, split⟩ : ∃ next later, ms ++ m :: rest = next :: later := by cases ms <;> exact ⟨_, _, rfl⟩
    have here : Inside i (first :: next :: later) s := by rw [← split]; exact h
    obtain ⟨played, inside⟩ := ih (s := (first.act s).goOn) (by rw [split]; exact here.goOn) steady
    exact ⟨(here.plays ready kept).cons played, inside⟩

/-- The state with GPREV low. -/
def State.gateFell (s : State) : State := { s with spi := { s.spi with gPrev := false } }

/-- The state with GPREV high and the request latched. -/
def State.gateRose (s : State) : State := { s with spi := { s.spi with gPrev := true }, dma := { s.dma with req := true } }

section

variable {i : Instr} {m m' : Micro} {ms : List Micro} {s : State}

/-- A micro-step after which the gate is low. -/
theorem Inside.plays_low (h : Inside i (m :: m' :: ms) s) (ready : m.ready s = true) (low : (m.act s).gate = false) :
    Plays [.fg] s (m.act s).goOn.gateFell ∧ Inside i (m' :: ms) (m.act s).goOn.gateFell := by
  refine ⟨?_, h.goOn.congr rfl rfl rfl rfl rfl⟩
  have played := Plays.turn h.free.noFault h.free.noRefusal (h.turn ready)
  rwa [State.endOfStep_low (by exact low)] at played

/-- A micro-step that raises the gate to a running stream. -/
theorem Inside.plays_rise (h : Inside i (m :: m' :: ms) s) (ready : m.ready s = true) (high : (m.act s).gate = true)
    (wasLow : (m.act s).spi.gPrev = false) (channel : (m.act s).dma.chsel = (m.act s).par.spiTxChannel)
    (running : (m.act s).dma.state = .running) :
    Plays [.fg] s (m.act s).goOn.gateRose ∧ Inside i (m' :: ms) (m.act s).goOn.gateRose := by
  refine ⟨?_, h.goOn.congr rfl rfl rfl rfl rfl⟩
  have played := Plays.turn h.free.noFault h.free.noRefusal (h.turn ready)
  rwa [State.endOfStep_rise (by exact high) (by exact wasLow) (by exact channel) (by exact running)] at played

/-- The last micro-step of a command. -/
theorem Inside.plays_last (h : Inside i [m] s) (ready : m.ready s = true) (kept : (m.act s).spi.gPrev = (m.act s).gate) :
    Plays [.fg] s ((m.act s).done (1 + i.operandWords)) :=
  .turn_kept h.free.noFault h.free.noRefusal (h.turn ready) kept

end

/-! ### The fill -/

/-- What µ2 to µ14 of SEQ.FILL make of the state. -/
def State.filled (s : State) (buf : Word) : State :=
  { s with
    irq := { s.irq with masked := s.fg.savedMask }
    dma :=
      { en := true, state := .running, chsel := s.par.spiTxChannel, esize := .half, burst := .four, fen := true,
        fth := s.par.pipeFth, ie := 0b11101, src := buf, dst := s.par.spiDrAddr, ndtCfg := s.seq.pixCnt,
        ndt := s.seq.pixCnt, sr := 0, fifo := [], fetched := 0, handed := 0, req := true }
    spi := { s.spi with profile := .streaming, spe := true, txDmaEn := true, rxBuf := none, gPrev := true }
    line := { s.line with cs := true, dc := true }
    seq := { s.seq with state := .streaming } }

/-- What SEQ.FILL does between the disable of the link and the request. -/
def prepareSteps (buf : Word) : List Micro :=
  [.waitSpeClear, .streamingProfile, .setSpe, .waitSpeSet, .armSequencer, .waitDmaOff, .pipeline buf, .selectData, .startStream]

/-- The state they make. -/
def State.prepared (s : State) (buf : Word) : State :=
  { s with
    fg := { s.fg with k := s.fg.k + 9 }
    dma := { (s.configure (pipelineDescriptor s.par buf s.seq.pixCnt)).dma with en := true, state := .running }
    spi := { s.spi with profile := .streaming, spe := true, txDmaEn := false, rxBuf := none }
    line := { s.line with cs := true, dc := true }
    seq := { s.seq with state := .streamingArmed } }

theorem performed_prepareSteps (s : State) (buf : Word) : performed (prepareSteps buf) s = s.prepared buf := by
  simp only [prepareSteps, performed, Micro.act, State.goOn, State.profileWrite, State.setSpe, State.setSeq, State.unarm,
    State.configure, State.startStream, State.prepared]

/-- They keep the gate low: the link is off, and from the profile write on its DMA request is. -/
theorem steady_prepareSteps {s : State} (buf : Word) (linkOff : s.spi.spe = false) (low : s.spi.gPrev = false)
    (off : s.dma.en = false) : Steady (prepareSteps buf) s := by
  have still {t : State} (prev : t.spi.gPrev = false) (request : t.spi.txDmaEn = false) : t.spi.gPrev = t.gate := by
    simp [State.gate, prev, request]
  exact ⟨congrArg Bool.not linkOff, low.trans (State.gate_of_spe_clear linkOff).symm, rfl, still low rfl, rfl, still low rfl,
    rfl, still low rfl, rfl, still low rfl, congrArg Bool.not off, still low rfl, rfl, still low rfl, rfl, still low rfl, rfl,
    still low rfl, trivial⟩

/-- µ2 to µ14 of SEQ.FILL from an idle link: the gate is low from the disable to the request, which the running stream
latches. -/
theorem Inside.plays_fill {i : Instr} {buf : Word} {s : State} (h : Inside i (fillSteps buf) s) (idle : s.bsy = false)
    (kept : s.spi.gPrev = s.gate) (off : s.dma.en = false) :
    Plays (List.replicate 13 .fg) s ((s.filled buf).done (1 + i.operandWords)) := by
  obtain ⟨txEmpty, -⟩ := s.bsy_eq_false_iff.1 idle
  obtain ⟨waited, h⟩ := Inside.plays_steady (ms := [.waitNotBusy]) h ⟨congrArg Bool.not idle, kept, trivial⟩
  obtain ⟨cleared, h⟩ := h.plays_low rfl rfl
  obtain ⟨prepared, h⟩ := Inside.plays_steady (ms := prepareSteps buf) h (steady_prepareSteps buf rfl rfl off)
  rw [performed_prepareSteps] at prepared h
  have high {t : State} (spe : t.spi.spe = true) (request : t.spi.txDmaEn = true) (empty : t.spi.txBuf = none)
    (streaming : t.spi.profile = .streaming) : t.gate = true := t.gate_iff.2 ⟨spe, request, empty, streaming⟩
  obtain ⟨requested, h⟩ := h.plays_rise rfl (high rfl rfl txEmpty rfl) rfl rfl rfl
  have restored := h.plays_last rfl (by exact (high rfl rfl (by exact txEmpty) rfl).symm)
  exact waited.append (cleared.append (prepared.append (requested.append restored)))

end Sys2Proof.Machine

namespace Sys2Proof.Proofs

open Sys2Proof.Machine

/-- Settles O45: µ1 by `seqFillBegins`, the rest by `Inside.plays_fill`. -/
theorem seqFillRuns : Obligations.SeqFillRuns := by
  unfold Obligations.SeqFillRuns
  intro s buf free first fetch windowSet ready notRunning idle kept
  have begins (ts : List Turn) : exec (.seqFill buf) (s.scheduled ts) = .next (s.saveAndMask.goOn.scheduled ts) :=
    (seqFillBegins (s.scheduled ts) buf first).2.2.2.2 windowSet { ready with }
  have inside : Inside (.seqFill buf) (fillSteps buf) s.saveAndMask.goOn := .begun { free with } fetch first
  exact ((Plays.begins free fetch begins kept).cons (inside.plays_fill idle kept ready.streamOff)).runSteps

end Sys2Proof.Proofs
end

section
/-! PROOF. The window commands run to their end (spec/42_sequencer.md R193, R194, R196, R198). -/

namespace Sys2Proof.Machine

/-- The link takes window bytes: CommandMode, enabled, selected, nothing in it, and GPREV low as its gate is. -/
structure State.listens (s : State) : Prop where
  commandMode : s.spi.profile = .command
  enabled : s.spi.spe = true
  selected : s.line.cs = true
  txEmpty : s.spi.txBuf = none
  notShifting : s.spi.shift = none
  nothingReceived : s.spi.rxBuf = none
  gateLow : s.spi.gPrev = false

/-- What sending window bytes changes: draws, the micro-step, the DC level and the frames. -/
def State.sent (s : State) (inp : Inputs) (k : Nat) (dc : Bool) (es : List Event) : State :=
  { s with inp := inp, fg := { s.fg with k := k }, line := { s.line with dc := dc }, trace := s.trace ++ es }

theorem State.sent_sent (s : State) (inp inp' : Inputs) (k k' : Nat) (dc dc' : Bool) (es es' : List Event) :
    (s.sent inp k dc es).sent inp' k' dc' es' = s.sent inp' k' dc' (es ++ es') := by
  simp only [State.sent, List.append_assoc]

theorem State.listens.sent {s : State} (h : s.listens) (inp : Inputs) (k : Nat) (dc : Bool) (es : List Event) :
    (s.sent inp k dc es).listens := { h with }

/-- The frame of a window byte. -/
def byteFrame (dc : Bool) (b : Byte) : Event := .frame true dc (.f8 b) true

/-- From a listening link the micro-steps `ms`, in the turns `τs`, send the frames `es` and leave DC at `dc`. -/
def Sends (ms : List Micro) (τs : List Turn) (dc : Bool) (s : State) (es : List Event) : Prop :=
  ∀ (i : Instr) (m : Micro) (rest : List Micro), Inside i (ms ++ m :: rest) s →
    ∃ inp k, Plays τs s (s.sent inp k dc es) ∧ Inside i (m :: rest) (s.sent inp k dc es)

theorem Sends.append {ms ms' : List Micro} {τs τs' : List Turn} {dc dc' : Bool} {s : State} {es es' : List Event}
    (h : Sends ms τs dc s es) (h' : ∀ inp k, Sends ms' τs' dc' (s.sent inp k dc es) es') :
    Sends (ms ++ ms') (τs ++ τs') dc' s (es ++ es') := by
  intro i m rest inside
  rw [List.append_assoc] at inside
  obtain ⟨next, later, split⟩ : ∃ next later, ms' ++ m :: rest = next :: later := by cases ms' <;> exact ⟨_, _, rfl⟩
  rw [split] at inside
  obtain ⟨inp, k, played, inside⟩ := h i next later inside
  rw [← split] at inside
  obtain ⟨inp', k', played', inside⟩ := h' inp k i m rest inside
  rw [State.sent_sent] at played' inside
  exact ⟨inp', k', played.append played', inside⟩

theorem Sends.none (s : State) : Sends [] [] s.line.dc s [] := by
  intro i m rest inside
  have same : s.sent s.inp s.fg.k s.line.dc [] = s := by simp only [State.sent, List.append_nil]
  exact ⟨s.inp, s.fg.k, by rw [same]; exact .nil s, by rw [same]; exact inside⟩

/-- In CommandMode the gate is low (R168). -/
theorem State.gate_of_command {s : State} (command : s.spi.profile = .command) : s.gate = false := by
  simp [State.gate, command]

theorem State.listens.sends_dc {s : State} (h : s.listens) (dc : Bool) : Sends [.setDc dc] [.fg] dc s [] := by
  intro i m rest inside
  have same : s.sent s.inp (s.fg.k + 1) dc [] = (Micro.act (.setDc dc) s).goOn := by
    simp only [State.sent, List.append_nil]
    rfl
  refine ⟨s.inp, s.fg.k + 1, ?_⟩
  rw [same]
  exact ⟨Inside.plays inside rfl (h.gateLow.trans (State.gate_of_command h.commandMode).symm), Inside.goOn inside⟩

/-- The link with a byte put into it. -/
def State.loaded (s : State) (b : Byte) : State := (Micro.act (.put b) s).goOn

/-- The link with that byte being shifted. -/
def State.shifting (s : State) (b : Byte) : State := (s.loaded b).loadShift (.f8 b)

/-- The link with the byte sent and `v` received, `inp` left of the draws. -/
def State.exchanged (s : State) (b v : Byte) (inp : Inputs) : State :=
  { s.shifting b with
    inp := inp
    spi := { (s.shifting b).spi with shift := none, rxBuf := some v }
    trace := s.trace ++ [byteFrame s.line.dc b] }

theorem State.listens.emits {s : State} (h : s.listens) (b : Byte) :
    ∃ v inp, shifterStep (s.shifting b) = s.exchanged b v inp := by
  have frame : Event.frame s.line.cs s.line.dc (.f8 b) (decide (s.line.cs = s.line.cs ∧ s.line.dc = s.line.dc)) =
      byteFrame s.line.dc b := by
    rw [decide_eq_true ⟨rfl, rfl⟩, h.selected]
    rfl
  rw [shifterStep_of_emit (s := s.shifting b) (x := ⟨.f8 b, s.line.cs, s.line.dc⟩) h.enabled rfl, emitFrame,
    State.receive_of_command (by exact h.commandMode)]
  exact ⟨_, _, congrArg (fun e => { s.exchanged b _ _ with trace := s.trace ++ [e] }) frame⟩

/-- A shifter step in CommandMode, GPREV low. -/
theorem Plays.shifter_command {s t : State} (hf : s.fault = none) (hr : s.refused = none) (h : shifterStep s = t)
    (command : t.spi.profile = .command) (low : t.spi.gPrev = false) : Plays [.sh] s t := by
  have played := Plays.shifter hf hr
  rwa [h, State.endOfStep_kept (low.trans (State.gate_of_command command).symm)] at played

/-- One exchange (R167): the byte goes out with the levels at its load, a byte comes in and is dropped. -/
theorem State.listens.sends_byte {s : State} (h : s.listens) (b : Byte) :
    Sends (xchgSeq b) exchangeTurns s.line.dc s [byteFrame s.line.dc b] := by
  intro i m rest inside
  have low {t : State} (prev : t.spi.gPrev = false) (command : t.spi.profile = .command) : t.spi.gPrev = t.gate :=
    prev.trans (State.gate_of_command command).symm
  have put : Plays [.fg] s (s.loaded b) := Inside.plays inside rfl (low h.gateLow h.commandMode)
  have inside : Inside i (.waitRx :: .dropRx :: m :: rest) (s.loaded b) := Inside.goOn inside
  have load : Plays [.sh] (s.loaded b) (s.shifting b) :=
    .shifter_command inside.free.noFault inside.free.noRefusal (shifterStep_of_load h.enabled h.notShifting rfl)
      h.commandMode h.gateLow
  obtain ⟨v, inp, emitted⟩ := h.emits b
  have emit : Plays [.sh] (s.shifting b) (s.exchanged b v inp) :=
    .shifter_command inside.free.noFault inside.free.noRefusal emitted h.commandMode h.gateLow
  have inside : Inside i (.waitRx :: .dropRx :: m :: rest) (s.exchanged b v inp) := inside.congr rfl rfl rfl rfl rfl
  have wait : Plays [.fg] (s.exchanged b v inp) (s.exchanged b v inp).goOn := inside.plays rfl (low h.gateLow h.commandMode)
  have inside : Inside i (.dropRx :: m :: rest) (s.exchanged b v inp).goOn := inside.goOn
  have drop : Plays [.fg] (s.exchanged b v inp).goOn (s.exchanged b v inp).goOn.dropRx.goOn :=
    inside.plays rfl (low h.gateLow h.commandMode)
  have inside : Inside i (m :: rest) (s.exchanged b v inp).goOn.dropRx.goOn := inside.goOn
  have link : { s.spi with txBuf := none, shift := none, rxBuf := none } = s.spi := by
    rw [← h.txEmpty, ← h.notShifting, ← h.nothingReceived]
  have same : (s.exchanged b v inp).goOn.dropRx.goOn = s.sent inp (s.fg.k + 3) s.line.dc [byteFrame s.line.dc b] :=
    congrArg (fun link => { s.sent inp (s.fg.k + 3) s.line.dc [byteFrame s.line.dc b] with spi := link }) link
  rw [same] at drop inside
  exact ⟨_, _, put.append (load.append (emit.append (wait.append drop))), inside⟩

theorem State.listens.sends_bytes {s : State} (h : s.listens) (params : List Byte) :
    Sends (params.flatMap xchgSeq) (List.replicate params.length exchangeTurns).flatten s.line.dc s
      (params.map (byteFrame s.line.dc)) := by
  induction params generalizing s with
  | nil => exact .none s
  | cons b params ih => exact (h.sends_byte b).append fun inp k => ih (h.sent inp k _ _)

/-- A command byte with DC = 0, then its parameters with DC = 1 (R194). -/
theorem State.listens.sends_group {s : State} (h : s.listens) (cmd : Byte) (params : List Byte) :
    Sends (windowGroup cmd params) (groupTurns params.length) (!params.isEmpty) s
      (byteFrame false cmd :: params.map (byteFrame true)) := by
  have command : Sends ([.setDc false] ++ xchgSeq cmd) ([.fg] ++ exchangeTurns) false s [byteFrame false cmd] :=
    (h.sends_dc false).append fun inp k => (h.sent inp k _ _).sends_byte cmd
  cases params with
  | nil => exact command
  | cons b params =>
    have level : Sends ([.setDc false] ++ xchgSeq cmd ++ [.setDc true]) ([.fg] ++ exchangeTurns ++ [.fg]) true s
        [byteFrame false cmd] := command.append fun inp k => (h.sent inp k _ _).sends_dc true
    exact level.append fun inp k => (h.sent inp k _ _).sends_bytes (b :: params)

theorem State.listens.sends_window {s : State} (h : s.listens) (w : Window) :
    Sends (windowBytes w) (groupTurns 4 ++ groupTurns 4 ++ groupTurns 0) false s (windowFrames w) :=
  ((h.sends_group Config.cmdCaset (coordBytes w.xs ++ coordBytes w.xe)).append fun inp k =>
    (h.sent inp k _ _).sends_group Config.cmdPaset (coordBytes w.ys ++ coordBytes w.ye)).append fun inp k =>
      (h.sent inp k _ _).sends_group Config.cmdRamwr []

end Sys2Proof.Machine

namespace Sys2Proof.Proofs

open Sys2Proof.Machine

/-- µ1 of a window command from an idle link leaves it listening. -/
theorem listens_openWindow {s : State} (ready : s.linkReady) (quiet : s.linkQuiet) (w : Window) :
    (s.openWindow w).goOn.listens where
  commandMode := ready.commandMode
  enabled := ready.enabled
  selected := rfl
  txEmpty := ready.txEmpty
  notShifting := (s.bsy_eq_false_iff.1 quiet.notBusy).2
  nothingReceived := Option.isNone_iff_eq_none.1 (Option.isSome_eq_false_iff.1 quiet.nothingReceived)
  gateLow := quiet.gateKept.trans (State.gate_of_command ready.commandMode)

/-- Settles O43: µ1 by `seqWindow`, the bytes by `sends_window`, then the last micro-step. -/
theorem seqWindowRuns : Obligations.SeqWindowRuns := by
  unfold Obligations.SeqWindowRuns
  intro s w free first fetch notFilling valid small ready quiet
  have begins (ts : List Turn) : exec (.seqWindow w) (s.scheduled ts) = .next ((s.openWindow w).goOn.scheduled ts) :=
    seqWindow.2 (s.scheduled ts) w first notFilling valid small { ready with }
  have listens := listens_openWindow ready quiet w
  have inside : Inside (.seqWindow w) (windowBytes w ++ [.windowSet]) (s.openWindow w).goOn :=
    .begun { free with } fetch first
  have begun := Plays.begins free fetch begins (listens.gateLow.trans (State.gate_of_command listens.commandMode).symm)
  obtain ⟨inp, k, bytes, inside⟩ := listens.sends_window w _ _ _ inside
  have listens := listens.sent inp k false (windowFrames w)
  have ended := inside.plays_last rfl (listens.gateLow.trans (State.gate_of_command listens.commandMode).symm)
  exact ⟨inp, (begun.append (bytes.append ended)).runSteps⟩

/-- Settles O48: µ1 by `fillWindow`, the bytes by `sends_window`, the mask, then the fill by `Inside.plays_fill`. -/
theorem fillWindowRuns : Obligations.FillWindowRuns := by
  unfold Obligations.FillWindowRuns
  intro s w buf i len free first fetch entry idle valid small link quiet ready notRunning
  have entered : FillsWindow i w buf ∧ len = 1 + i.operandWords ∧ i.laterSteps = fillWindowSteps w buf := by
    rcases entry with ⟨rfl, rfl⟩ | ⟨wd, ht, rfl, size, rfl, rfl⟩
    · exact ⟨.inl rfl, rfl, rfl⟩
    · exact ⟨.inr ⟨wd, ht, rfl, size, rfl⟩, rfl, rfl⟩
  obtain ⟨fills, rfl, steps⟩ := entered
  have begins (ts : List Turn) : exec i (s.scheduled ts) = .next ((s.openWindow w).goOn.scheduled ts) :=
    fillWindow.2 (s.scheduled ts) w buf i first fills idle valid small { link with } { ready with }
  have listens := listens_openWindow link quiet w
  have inside : Inside i (windowBytes w ++ .windowSetMasked :: fillSteps buf) (s.openWindow w).goOn := by
    have begun := Inside.begun (s := s.openWindow w) { free with } fetch first (by rw [steps]; rfl)
    rwa [steps, fillWindowSteps, List.append_assoc] at begun
  have begun := Plays.begins free fetch begins (listens.gateLow.trans (State.gate_of_command listens.commandMode).symm)
  obtain ⟨inp, k, bytes, inside⟩ := listens.sends_window w _ _ _ inside
  have listens := listens.sent inp k false (windowFrames w)
  have gate := listens.gateLow.trans (State.gate_of_command listens.commandMode).symm
  have masked := Inside.plays inside rfl gate
  have filled := (Inside.goOn inside).plays_fill quiet.notBusy gate ready.streamOff
  exact ⟨inp, (begun.append (bytes.append (masked.append filled))).runSteps⟩

end Sys2Proof.Proofs
end

section
/-! PROOF. The teardown run to its end, by the handler and by SEQ.HANDSHAKE (spec/60_exceptions.md R243 to R247,
spec/42_sequencer.md R199). -/

namespace Sys2Proof.Machine

/-! ### The agent that performs H1 to H10 -/

theorem TeardownNext.teardownStep {j j' : Nat} {status : BitVec 5} {r : Half} {s v : State}
    (h : TeardownNext status r s j j' v) : Machine.teardownStep j status r s = some (j', v) := by
  cases h with
  | h2Guarded guard | h2Unguarded guard => simp [Machine.teardownStep, guard]
  | h4 drained => simp [Machine.teardownStep, drained]
  | h6 off => simp [Machine.teardownStep, off]
  | h9 on => simp [Machine.teardownStep, on]
  | h10 => simp [Machine.teardownStep, completionHook_eq]
  | h1 | h3 | h5 | h7 | h8 => rfl

/-- The state with another foreground, handler and inputs. -/
def State.elsewhere (s : State) (fg : Fg) (hd : Handler) (inp : Inputs) : State := { s with fg := fg, hd := hd, inp := inp }

/-- The teardown reads neither the foreground, nor the handler, nor the inputs. -/
theorem TeardownNext.elsewhere {j j' : Nat} {status : BitVec 5} {r : Half} {s v : State}
    (h : TeardownNext status r s j j' v) (fg : Fg) (hd : Handler) (inp : Inputs) :
    TeardownNext status r (s.elsewhere fg hd inp) j j' (v.elsewhere fg hd inp) := by
  cases h with
  | h1 =>
    have same : serviceErrors status r (s.elsewhere fg hd inp) = (serviceErrors status r s).elsewhere fg hd inp := by
      rw [serviceErrors_eq, serviceErrors_eq]
      rfl
    rw [← same]
    exact .h1
  | h2Guarded guard | h2Unguarded guard =>
    have same : clearCompletion status (s.elsewhere fg hd inp) = (clearCompletion status s).elsewhere fg hd inp := by
      rw [clearCompletion_eq, clearCompletion_eq]
      rfl
    rw [← same]
    constructor
    exact guard
  | h4 drained => exact .h4 drained
  | h6 off => exact .h6 off
  | h9 on => exact .h9 on
  | h3 => exact .h3
  | h5 => exact .h5
  | h7 => exact .h7
  | h8 => exact .h8
  | h10 => exact .h10

theorem TeardownNext.scheduled {j j' : Nat} {status : BitVec 5} {r : Half} {s v : State}
    (h : TeardownNext status r s j j' v) (ts : List Turn) :
    TeardownNext status r (s.scheduled ts) j j' (v.scheduled ts) := by
  obtain ⟨-, fg, -, hd, -, -, -, -, -, inp⟩ := teardownStep_keeps h.teardownStep
  have moved := h.elsewhere s.fg s.hd (s.scheduled ts).inp
  have same : v.elsewhere s.fg s.hd (s.scheduled ts).inp = v.scheduled ts := by
    simp only [State.elsewhere, State.scheduled, fg, hd, inp]
  rwa [same] at moved

/-- The state with the agent of these turns at H_j. -/
def State.placed (t : State) (status : BitVec 5) (r : Half) : Turn → Nat → State
  | .hd, j => { t with hd := .active j status r }
  | _, j => { t with fg := { t.fg with k := j + 2 } }

/-- The agent of these turns is at H_j: the handler, or the foreground in SEQ.HANDSHAKE (R199, log 12). -/
inductive AtH (status : BitVec 5) (r : Half) (s : State) : Turn → Nat → Prop
  | handler {j : Nat} (noFault : s.fault = none) (noRefusal : s.refused = none) (active : s.hd = .active j status r) :
    AtH status r s .hd j
  | handshake {j : Nat} (free : s.fgFree) (fetch : s.fetch = .command .seqHandshake) (place : s.fg.k = j + 2)
    (saved : s.fg.status = status) (remaining : s.fg.remaining = r) : AtH status r s .fg j

section

variable {status : BitVec 5} {r : Half} {s t : State} {τ : Turn} {j j' : Nat}

theorem AtH.noFault (h : AtH status r s τ j) : s.fault = none := by
  cases h with
  | handler noFault => exact noFault
  | handshake free => exact free.noFault

theorem AtH.noRefusal (h : AtH status r s τ j) : s.refused = none := by
  cases h with
  | handler _ noRefusal => exact noRefusal
  | handshake free => exact free.noRefusal

theorem AtH.congr (h : AtH status r s τ j) (prog : t.prog = s.prog) (fg : t.fg = s.fg) (hd : t.hd = s.hd)
    (fault : t.fault = s.fault) (refused : t.refused = s.refused) : AtH status r t τ j := by
  cases h with
  | handler noFault noRefusal active => exact .handler (fault.trans noFault) (refused.trans noRefusal) (hd.trans active)
  | handshake free fetch place saved remaining =>
    exact .handshake
      ⟨fault.trans free.noFault, refused.trans free.noRefusal, by rw [fg]; exact free.notHalted, hd.trans free.notPreempted⟩
      ((State.fetch_congr prog (by rw [fg])).trans fetch) (by rw [fg]; exact place) (by rw [fg]; exact saved)
      (by rw [fg]; exact remaining)

theorem AtH.placed (h : AtH status r s τ j) (j' : Nat) : AtH status r (s.placed status r τ j') τ j' := by
  cases h with
  | handler noFault noRefusal => exact .handler noFault noRefusal rfl
  | handshake free fetch _ saved remaining => exact .handshake { free with } fetch rfl saved remaining

/-- The agent's turn is its step of the teardown. -/
theorem AtH.turnStep (h : AtH status r s τ j) (step : TeardownNext status r s j j' t) :
    Machine.turnStep τ s = .next (t.placed status r τ j') := by
  obtain ⟨low, high, -⟩ := step.bounds
  cases h with
  | handler _ _ active => exact congrArg Host.Outcome.next (handlerStep_of_teardownStep active (by omega) step.teardownStep)
  | handshake free fetch place saved remaining =>
    refine (foregroundStep_free free.notHalted free.notPreempted fetch).trans ?_
    rw [exec_handshake_teardown place low high, saved, remaining, step.teardownStep]
    rfl

theorem AtH.next (h : AtH status r s τ j) (step : TeardownNext status r s j j' t) :
    AtH status r (t.placed status r τ j') τ j' := by
  obtain ⟨-, fg, -, hd, -, fault, refused, prog, -⟩ := teardownStep_keeps step.teardownStep
  exact (h.congr prog fg hd fault refused).placed j'

theorem State.placed_spi (t : State) : (t.placed status r τ j).spi = t.spi := by
  cases τ <;> rfl

theorem State.gate_congr {u : State} (h : u.spi = t.spi) : u.gate = t.gate := by
  simp only [State.gate, State.txe, h]

theorem TeardownNext.placed (h : TeardownNext status r s j j' t) :
    TeardownNext status r (s.placed status r τ j) j j' (t.placed status r τ j) := by
  obtain ⟨-, fg, -, hd, -, -, -, -, -, inp⟩ := teardownStep_keeps h.teardownStep
  have moved := h.elsewhere (s.placed status r τ j).fg (s.placed status r τ j).hd s.inp
  have before : s.elsewhere (s.placed status r τ j).fg (s.placed status r τ j).hd s.inp = s.placed status r τ j := by
    cases τ <;> rfl
  have after : t.elsewhere (s.placed status r τ j).fg (s.placed status r τ j).hd s.inp = t.placed status r τ j := by
    cases τ <;> simp only [State.elsewhere, State.placed, fg, hd, inp]
  rwa [before, after] at moved

theorem State.placed_placed (t : State) : (t.placed status r τ j).placed status r τ j' = t.placed status r τ j' := by
  cases τ <;> rfl

/-- The turns bring the agent from `s` to H_j of `t`. -/
structure Brings (status : BitVec 5) (r : Half) (τ : Turn) (τs : List Turn) (s t : State) (j : Nat) : Prop where
  plays : Plays τs s (t.placed status r τ j)
  atH : AtH status r (t.placed status r τ j) τ j

variable {τs : List Turn} {u : State}

theorem Brings.turn (h : Brings status r τ τs s t j) (step : TeardownNext status r t j j' u) :
    Plays (τs ++ [τ]) s (u.placed status r τ j').endOfStep ∧ AtH status r (u.placed status r τ j') τ j' := by
  have here := step.placed (τ := τ)
  have turn (ts : List Turn) :
      turnStep τ ((t.placed status r τ j).scheduled ts) = .next ((u.placed status r τ j').scheduled ts) := by
    have scheduled : AtH status r ((t.placed status r τ j).scheduled ts) τ j := h.atH.congr rfl rfl rfl rfl rfl
    rw [scheduled.turnStep (here.scheduled ts)]
    cases τ <;> rfl
  have after := h.atH.next here
  rw [State.placed_placed] at after
  exact ⟨h.plays.append (.turn h.atH.noFault h.atH.noRefusal turn), after⟩

/-- A step of the teardown that leaves GPREV at the gate's value. -/
theorem Brings.kept (h : Brings status r τ τs s t j) (step : TeardownNext status r t j j' u) (kept : u.spi.gPrev = u.gate) :
    Brings status r τ (τs ++ [τ]) s u j' := by
  obtain ⟨played, after⟩ := h.turn step
  rw [State.endOfStep_kept (by rw [State.gate_congr u.placed_spi, u.placed_spi, kept])] at played
  exact ⟨played, after⟩

/-- A step of the teardown after which the gate is low. -/
theorem Brings.low (h : Brings status r τ τs s t j) (step : TeardownNext status r t j j' u) (low : u.gate = false) :
    Brings status r τ (τs ++ [τ]) s u.gateFell j' := by
  obtain ⟨played, after⟩ := h.turn step
  have fell : { u.placed status r τ j' with spi := { (u.placed status r τ j').spi with gPrev := false } } =
      u.gateFell.placed status r τ j' := by
    cases τ <;> rfl
  rw [State.endOfStep_low (by rw [State.gate_congr u.placed_spi, low]), fell] at played
  refine ⟨played, ?_⟩
  rw [← fell]
  exact after.congr rfl rfl rfl rfl rfl

/-! ### The stretches of the teardown -/

/-- The state with the flags of the status cleared and the hooks of all kinds but TC called. -/
def State.serviced (s : State) (status : BitVec 5) (r : Half) : State :=
  { s with
    dma := { s.dma with sr := s.dma.sr &&& ~~~status }
    trace := s.trace ++ hookEvents s.par [.te, .dme, .fe, .ht] status r }

theorem clearCompletion_serviceErrors (s : State) :
    clearCompletion status (serviceErrors status r s) = s.serviced status r := by
  rw [clearCompletion_eq, serviceErrors_eq]
  exact congrArg (fun sr => { s.serviced status r with dma := { s.dma with sr := sr } }) (clear_status s.dma.sr status)

theorem teardownGuard_serviceErrors (s : State) : teardownGuard status (serviceErrors status r s) = teardownGuard status s := by
  rw [serviceErrors_eq]
  rfl

/-- H1 and H2 with the guard (R243). -/
theorem Brings.guarded (h : Brings status r τ τs s t 1) (kept : t.spi.gPrev = t.gate)
    (guard : teardownGuard status t = true) : Brings status r τ (τs ++ [τ] ++ [τ]) s (t.serviced status r) 3 := by
  have step := TeardownNext.h2Guarded (r := r) ((teardownGuard_serviceErrors (r := r) t).trans guard)
  rw [clearCompletion_serviceErrors] at step
  exact (h.kept .h1 (by rw [serviceErrors_eq]; exact kept)).kept step kept

/-- H1 and H2 without it (R245). -/
theorem Brings.unguarded (h : Brings status r τ τs s t 1) (kept : t.spi.gPrev = t.gate)
    (guard : teardownGuard status t = false) : Brings status r τ (τs ++ [τ] ++ [τ]) s (t.serviced status r) 10 := by
  have step := TeardownNext.h2Unguarded (r := r) ((teardownGuard_serviceErrors (r := r) t).trans guard)
  rw [clearCompletion_serviceErrors] at step
  exact (h.kept .h1 (by rw [serviceErrors_eq]; exact kept)).kept step kept

/-- The state after the teardown of the link: CommandMode, enabled, its gate low; the sequencer Idle. -/
def State.tornDown (s : State) : State :=
  { s with
    spi := { s.spi with profile := .command, spe := true, txDmaEn := false, rxBuf := none, gPrev := false }
    seq := { s.seq with state := .idle } }

/-- H4 to H9 with a drained link. -/
theorem Brings.tornDown (h : Brings status r τ τs s t 4) (drained : t.bsy = false) (kept : t.spi.gPrev = t.gate) :
    Brings status r τ (τs ++ [τ] ++ [τ] ++ [τ] ++ [τ] ++ [τ] ++ [τ]) s t.tornDown 10 := by
  have waited := h.kept (.h4 drained) kept
  have disabled := waited.low .h5 (State.gate_of_spe_clear rfl)
  have off := disabled.kept (.h6 rfl) rfl
  have written := off.kept .h7 (State.gate_of_command rfl).symm
  have enabled := written.kept .h8 (State.gate_of_command rfl).symm
  exact enabled.kept (.h9 rfl) (State.gate_of_command rfl).symm

theorem AtH.brings (h : AtH status r s τ j) : Brings status r τ [] s s j := by
  have here : s.placed status r τ j = s := by
    cases h with
    | handler _ _ active => simp only [State.placed, ← active]
    | handshake _ _ place => simp only [State.placed, ← place]
  exact ⟨by rw [here]; exact .nil s, by rw [here]; exact h⟩

/-- H11 (R243): the handler returns. -/
theorem Brings.returned (h : Brings status r .hd τs s t 11) (kept : t.spi.gPrev = t.gate) :
    Plays (τs ++ [.hd]) s (t.placed status r .hd 11).returnFromInterrupt :=
  h.plays.append (.turn_kept h.atH.noFault h.atH.noRefusal (fun _ => congrArg Host.Outcome.next (handlerStep_H11 rfl)) kept)

end

end Sys2Proof.Machine
end

section
/-! PROOF. The handler's run with a teardown, and SEQ.HANDSHAKE's runs (spec/60_exceptions.md R243 to R247, spec/42_sequencer.md
R199). -/

namespace Sys2Proof.Machine

/-! ### The end of a step as an update (R168) -/

theorem State.deliverRequest_eq (s : State) :
    ∃ inp req, s.deliverRequest = { s with inp := inp, dma := { s.dma with req := req } } := by
  by_cases channel : s.dma.chsel = s.par.spiTxChannel
  · by_cases running : s.dma.state = .running
    · exact ⟨s.inp, true, State.deliverRequest_of_running channel running⟩
    · exact ⟨_, _, State.deliverRequest_of_not_running channel running⟩
  · exact ⟨s.inp, s.dma.req, State.deliverRequest_of_other_channel channel⟩

theorem State.endOfStep_eq (s : State) :
    ∃ inp req, s.endOfStep =
      { s with inp := inp, dma := { s.dma with req := req }, spi := { s.spi with gPrev := s.gate } } := by
  by_cases rising : s.gate = true ∧ s.spi.gPrev = false
  · obtain ⟨inp, req, delivered⟩ := s.deliverRequest_eq
    refine ⟨inp, req, ?_⟩
    rw [State.endOfStep_of_rising rising.1 rising.2, delivered, rising.1]
  · refine ⟨s.inp, s.dma.req, State.endOfStep_of_not_rising ?_⟩
    rwa [Classical.not_and_iff_not_or_not, Bool.not_eq_true, Bool.not_eq_false] at rising

theorem teardownGuard_iff (status : BitVec 5) (s : State) :
    teardownGuard status s = true ↔ hasFlag status .tc = true ∧ s.seq.state = .streaming := by
  simp [teardownGuard]

/-- The state after H3 with the guard: the flags of the status cleared, their hooks called, CS low. -/
def State.afterH3 (s : State) (status : BitVec 5) (r : Half) : State :=
  ((s.serviced status r).setLine .cs false).placed status r .hd 4

/-! ### The drain of a link in StreamingMode (R170, R247) -/

/-- What the drain of a link changes: draws, the request latch, the link's two buffers and GPREV, and the frames. -/
def State.drained (s : State) (inp : Inputs) (req : Bool) (es : List Event) : State :=
  { s with
    inp := inp
    dma := { s.dma with req := req }
    spi := { s.spi with txBuf := none, shift := none, gPrev := s.spi.txDmaEn }
    trace := s.trace ++ es }

/-- The link with the frame of the transmit buffer loaded, GPREV at the gate's value. -/
def State.reloaded (s : State) (f : Frame) (inp : Inputs) (req : Bool) : State :=
  { s.loadShift f with
    inp := inp
    dma := { s.dma with req := req }
    spi := { (s.loadShift f).spi with gPrev := s.spi.txDmaEn } }

/-- The frame of what is being shifted, at its end. -/
def State.shiftedFrame (s : State) : List Event :=
  match s.spi.shift with
  | some x => [.frame x.cs0 x.dc0 x.frame (decide (s.line.cs = x.cs0 ∧ s.line.dc = x.dc0))]
  | none => []

/-- The same with CS low at the end. -/
def State.shiftedAtLow (s : State) : List Event :=
  match s.spi.shift with
  | some x => [.frame x.cs0 x.dc0 x.frame (decide (x.cs0 = false ∧ x.dc0 = s.line.dc))]
  | none => []

theorem State.shiftedFrame_of_cs_low {s : State} (low : s.line.cs = false) : s.shiftedFrame = s.shiftedAtLow := by
  unfold State.shiftedFrame State.shiftedAtLow
  cases s.spi.shift with
  | none => rfl
  | some x =>
    have stable : (s.line.cs = x.cs0 ∧ s.line.dc = x.dc0) ↔ (x.cs0 = false ∧ x.dc0 = s.line.dc) := by
      rw [low, eq_comm, eq_comm (a := s.line.dc)]
    simp only [stable]

/-- The frame of the transmit buffer, loaded at the present levels. -/
def State.waitingFrame (s : State) : List Event :=
  match s.spi.txBuf with
  | some f => [.frame s.line.cs s.line.dc f true]
  | none => []

/-- The state after H3 with the link drained. -/
def State.drainedAfterH3 (s : State) (status : BitVec 5) (r : Half) (inp : Inputs) (req : Bool) : State :=
  (s.afterH3 status r).drained inp req ((s.afterH3 status r).shiftedFrame ++ (s.afterH3 status r).waitingFrame)

/-- With its transmit buffer empty an enabled link in StreamingMode asks for data as its DMA request says (R168). -/
theorem State.gate_of_streaming {s : State} (on : s.spi.spe = true) (streaming : s.spi.profile = .streaming)
    (sent : s.spi.txBuf = none) : s.gate = s.spi.txDmaEn := by
  simp [State.gate, State.txe, on, streaming, sent]

section

variable {s : State} (hf : s.fault = none) (hr : s.refused = none)
include hf hr

/-- The shifter holds an empty link. -/
theorem Plays.holds (empty : s.spi.shift = none) (sent : s.spi.txBuf = none) (kept : s.spi.gPrev = s.gate) :
    Plays [.sh] s s := by
  have played := Plays.shifter hf hr
  rwa [shifterStep_of_hold (.inr ⟨empty, sent⟩), State.endOfStep_kept kept] at played

variable (streaming : s.spi.profile = .streaming) (on : s.spi.spe = true)
include streaming on

/-- The shifter sends the frame being shifted and receives nothing. -/
theorem Plays.sends_shifted {x : Shifting} (shifting : s.spi.shift = some x) (kept : s.spi.gPrev = s.gate) :
    Plays [.sh] s { s with spi := { s.spi with shift := none }, trace := s.trace ++ s.shiftedFrame } := by
  have emitted : shifterStep s = { s with spi := { s.spi with shift := none }, trace := s.trace ++ s.shiftedFrame } := by
    rw [shifterStep_of_emit on shifting, State.emitFrame, State.receive_of_not_command (by simp [streaming]), State.shiftedFrame,
      shifting]
  have played := Plays.shifter hf hr
  rwa [emitted, State.endOfStep_kept (by exact kept)] at played

/-- Two steps of the shifter send the frame in the transmit buffer, if there is one. -/
theorem Plays.sends_waiting (empty : s.spi.shift = none) (kept : s.spi.gPrev = s.gate) :
    ∃ inp req, Plays [.sh, .sh] s (s.drained inp req s.waitingFrame) := by
  cases waiting : s.spi.txBuf with
  | none =>
    have same : s.drained s.inp s.dma.req s.waitingFrame = s := by
      have link : { s.spi with txBuf := none, shift := none, gPrev := s.spi.txDmaEn } = s.spi := by
        rw [← State.gate_of_streaming on streaming waiting, ← kept, ← waiting, ← empty]
      rw [State.drained, link, State.waitingFrame, waiting, List.append_nil]
    have held := Plays.holds hf hr empty waiting kept
    exact ⟨s.inp, s.dma.req, by rw [same]; exact held.append held⟩
  | some f =>
    obtain ⟨inp, req, ended⟩ := (s.loadShift f).endOfStep_eq
    rw [State.gate_of_streaming (by exact on) (by exact streaming) rfl] at ended
    have loaded : Plays [.sh] s (s.reloaded f inp req) := by
      have played := Plays.shifter hf hr
      rwa [shifterStep_of_load on empty waiting, ended] at played
    have emitted := Plays.sends_shifted (s := s.reloaded f inp req) hf hr streaming on rfl
      (State.gate_of_streaming (s := s.reloaded f inp req) on streaming rfl).symm
    have frame : (s.reloaded f inp req).shiftedFrame = s.waitingFrame := by
      rw [State.waitingFrame, waiting]
      exact congrArg (fun stable => [Event.frame s.line.cs s.line.dc f stable]) (decide_eq_true ⟨rfl, rfl⟩)
    rw [frame] at emitted
    exact ⟨inp, req, loaded.append emitted⟩

/-- Three steps of the shifter send all there is. -/
theorem Plays.drains (kept : s.spi.gPrev = s.gate) :
    ∃ inp req, Plays [.sh, .sh, .sh] s (s.drained inp req (s.shiftedFrame ++ s.waitingFrame)) := by
  cases shifting : s.spi.shift with
  | none =>
    obtain ⟨inp, req, sent⟩ := Plays.sends_waiting hf hr streaming on shifting kept
    have held : Plays [.sh] (s.drained inp req s.waitingFrame) (s.drained inp req s.waitingFrame) :=
      .holds hf hr rfl rfl
        (State.gate_of_streaming (s := s.drained inp req s.waitingFrame) on streaming rfl).symm
    refine ⟨inp, req, ?_⟩
    rw [State.shiftedFrame, shifting]
    exact sent.append held
  | some x =>
    have emitted := Plays.sends_shifted hf hr streaming on shifting kept
    obtain ⟨inp, req, sent⟩ := Plays.sends_waiting
      (s := { s with spi := { s.spi with shift := none }, trace := s.trace ++ s.shiftedFrame }) hf hr streaming on rfl kept
    refine ⟨inp, req, ?_⟩
    have run := emitted.append sent
    rw [State.drained, List.append_assoc] at run
    exact run

end

end Sys2Proof.Machine

namespace Sys2Proof.Proofs

open Sys2Proof.Machine

/-- With TC in the status the completion's hook is the last of an activation's (R246). -/
theorem hookEvents_completion {status : BitVec 5} (complete : hasFlag status .tc = true) (p : Params) (r : Half) :
    hookEvents p [.tc] status r = if p.hookPresent then [.hook .tc r] else [] := by
  simp [hookEvents, complete]

theorem hookEvents_with_completion {status : BitVec 5} (complete : hasFlag status .tc = true) (p : Params) (r : Half) :
    hookEvents p [.te, .dme, .fe, .ht] status r ++ hookEvents p [.tc] status r =
      if p.hookPresent then ([FlagKind.te, .dme, .fe, .ht].filter (hasFlag status)).map (fun k => .hook k r) ++ [.hook .tc r]
      else [] := by
  rw [hookEvents_completion complete, hookEvents]
  cases p.hookPresent <;> rfl

/-- Settles O52: the stretches of the teardown by the handler, with the shifter's drain between H3 and H4 of a busy link. -/
theorem teardownRuns : Obligations.TeardownRuns := by
  unfold Obligations.TeardownRuns
  refine ⟨fun s status r hf hr active complete streaming idle kept => ?drained, fun s status r => ⟨?h3, ?hold, ?h4⟩,
    fun s status r hf hr active complete streaming profile on kept => ?busy⟩
  case drained =>
    have guard : teardownGuard status s = true := (teardownGuard_iff status s).2 ⟨complete, streaming⟩
    have begins : Brings status r .hd [] s s 1 := AtH.brings (.handler hf hr active)
    have torn := ((begins.guarded kept guard).kept .h3 kept).tornDown idle kept
    have low : ((s.serviced status r).setLine .cs false).tornDown.gate = false := State.gate_of_command rfl
    refine ((torn.kept .h10 low.symm).returned low.symm).runSteps.trans ?_
    rw [← hookEvents_with_completion complete, ← List.append_assoc]
    rfl
  case h3 => exact fun active => handlerStep_of_teardownStep active (by decide) rfl
  case hold =>
    intro active busy
    have waits : s.bsy = true := by
      rw [← Bool.not_eq_false, s.bsy_eq_false_iff, not_and_or]
      exact busy
    simp [Machine.handlerStep, active, teardownStep, waits]
  case h4 =>
    intro active sent empty
    exact handlerStep_of_teardownStep active (by decide)
      (TeardownNext.h4 (s.bsy_eq_false_iff.2 ⟨sent, empty⟩)).teardownStep
  case busy =>
    have guard : teardownGuard status s = true := (teardownGuard_iff status s).2 ⟨complete, streaming⟩
    have begins : Brings status r .hd [] s s 1 := AtH.brings (.handler hf hr active)
    have low := (begins.guarded kept guard).kept .h3 kept
    obtain ⟨inp, req, drains⟩ := Plays.drains (s := s.afterH3 status r) hf hr profile on kept
    have waits : Brings status r .hd [] (s.drainedAfterH3 status r inp req) (s.drainedAfterH3 status r inp req) 4 :=
      AtH.brings (low.atH.congr rfl rfl rfl rfl rfl)
    have torn := waits.tornDown rfl (State.gate_of_streaming (s := s.drainedAfterH3 status r inp req) on profile rfl).symm
    have still : (s.drainedAfterH3 status r inp req).tornDown.gate = false := State.gate_of_command rfl
    have run := (torn.kept .h10 still.symm).returned still.symm
    refine ⟨inp, req, (low.plays.append (drains.append run)).runSteps.trans ?_⟩
    have trace : s.trace ++ hookEvents s.par [.te, .dme, .fe, .ht] status r ++
          ((s.afterH3 status r).shiftedFrame ++ (s.afterH3 status r).waitingFrame) ++ hookEvents s.par [.tc] status r =
        s.trace ++ hookEvents s.par [.te, .dme, .fe, .ht] status r ++ (s.afterH3 status r).shiftedAtLow ++
          (s.afterH3 status r).waitingFrame ++ if s.par.hookPresent then [.hook .tc r] else [] := by
      rw [State.shiftedFrame_of_cs_low rfl, hookEvents_completion complete, ← List.append_assoc _ _ (State.waitingFrame _)]
    exact congrArg
      (fun es => Host.Outcome.next { (s.drainedAfterH3 status r inp req).tornDown.returnFromInterrupt with trace := es }) trace

/-- The state after the first two micro-steps of SEQ.HANDSHAKE: the mask saved and set, the status and the count read. -/
def afterH0 (s : State) : State :=
  ({ s.saveAndMask.goOn with
      fg := { s.saveAndMask.goOn.fg with status := s.dma.sr &&& s.dma.ie, remaining := s.dma.ndt } } : State).goOn

/-- The state after H2 of SEQ.HANDSHAKE. -/
def afterH2 (s : State) : State := (afterH0 s).serviced (s.dma.sr &&& s.dma.ie) s.dma.ndt

/-- µ1 and µ2 of SEQ.HANDSHAKE bring the foreground to H1. -/
theorem brings_handshake {s : State} (free : s.fgFree) (first : s.fg.k = 1) (fetch : s.fetch = .command .seqHandshake)
    (kept : s.spi.gPrev = s.gate) :
    Brings (s.dma.sr &&& s.dma.ie) s.dma.ndt .fg ([.fg] ++ [.fg]) s (afterH0 s) 1 := by
  have second : s.saveAndMask.goOn.fg.k = 2 := congrArg (· + 1) first
  have third : (afterH0 s).fg.k = 3 := congrArg (· + 1) second
  have masked : Plays [.fg] s s.saveAndMask.goOn := .begins free fetch (fun _ => exec_handshake_mask first) kept
  have read : Plays [.fg] s.saveAndMask.goOn (afterH0 s) :=
    .begins { free with } fetch (fun _ => exec_handshake_status second) kept
  have atH : AtH (s.dma.sr &&& s.dma.ie) s.dma.ndt (afterH0 s) .fg 1 := .handshake { free with } fetch third rfl rfl
  have here := atH.brings
  exact ⟨masked.append (read.append here.plays), here.atH⟩

/-- µ13 of SEQ.HANDSHAKE. -/
theorem plays_handshake_end {status : BitVec 5} {r : Half} {τs : List Turn} {s t : State}
    (h : Brings status r .fg τs s t 11) (kept : t.spi.gPrev = t.gate) :
    Plays (τs ++ [.fg]) s ((t.placed status r .fg 11).restoreMask.done 1) := by
  cases h.atH with
  | handshake free fetch place => exact h.plays.append (.begins free fetch (fun _ => exec_handshake_restore place) kept)

/-- Settles O55: its own micro-steps, and the stretches of the teardown by the foreground. -/
theorem handshake : Obligations.Handshake := by
  unfold Obligations.Handshake
  refine ⟨fun s => ⟨exec_handshake_mask, exec_handshake_status, fun waiting busy => ?hold, exec_handshake_restore⟩,
    fun s status free first fetch kept hstatus => ?runs⟩
  case hold =>
    rw [exec_handshake_teardown (j := 4) waiting (by decide) (by decide)]
    simp [teardownStep, busy]
  case runs =>
    subst hstatus
    have begun := brings_handshake free first fetch kept
    have trace : (afterH2 s).trace ++ hookEvents s.par [.tc] (s.dma.sr &&& s.dma.ie) s.dma.ndt =
        s.trace ++ hookEvents s.par [.te, .dme, .fe, .ht, .tc] (s.dma.sr &&& s.dma.ie) s.dma.ndt :=
      (List.append_assoc _ _ _).trans (congrArg (s.trace ++ ·) (hookEvents_append _ _ _ _ _))
    refine ⟨fun still => ?_, fun complete streaming idle => ?_⟩
    · have guard : teardownGuard (s.dma.sr &&& s.dma.ie) (afterH0 s) = false := by
        rw [← Bool.not_eq_true, teardownGuard_iff, not_and_or, Bool.not_eq_true]
        exact still
      refine (plays_handshake_end ((begun.unguarded kept guard).kept .h10 kept) kept).runSteps.trans ?_
      exact congrArg (fun es => Host.Outcome.next { (afterH2 s).restoreMask.done 1 with trace := es }) trace
    · have guard : teardownGuard (s.dma.sr &&& s.dma.ie) (afterH0 s) = true :=
        (teardownGuard_iff _ _).2 ⟨complete, streaming⟩
      have torn := ((begun.guarded kept guard).kept .h3 kept).tornDown idle kept
      have low : ((afterH2 s).setLine .cs false).tornDown.gate = false := State.gate_of_command rfl
      refine (plays_handshake_end (torn.kept .h10 low.symm) low.symm).runSteps.trans ?_
      exact congrArg
        (fun es => Host.Outcome.next { ((afterH2 s).setLine .cs false).tornDown.restoreMask.done 1 with trace := es }) trace

end Sys2Proof.Proofs
end

section
/-! PROOF. A stream run to its completion (spec/40_dma.md R129 to R134). -/

namespace Sys2Proof.Machine

/-! ### One round: fetch, handoff, load, emit -/

/-- The stream runs, its request latched and nothing fetched ahead, and the link asks for the next element with nothing in it. -/
structure State.Streams (s : State) : Prop where
  noFault : s.fault = none
  noRefusal : s.refused = none
  running : s.dma.state = .running
  requested : s.dma.req = true
  fifo : s.dma.fifo = []
  half : s.dma.esize = .half
  channel : s.dma.chsel = s.par.spiTxChannel
  depth : 1 ≤ s.par.fifoDepth
  streaming : s.spi.profile = .streaming
  enabled : s.spi.spe = true
  request : s.spi.txDmaEn = true
  txEmpty : s.spi.txBuf = none
  notShifting : s.spi.shift = none
  gateHigh : s.spi.gPrev = true

/-- The address of the next element (R126). -/
def State.nextAddr (s : State) : Word := s.dma.src + BitVec.ofNat 32 (s.dma.fetched.toNat * 2)

/-- The next element's frame. -/
def State.nextFrame (s : State) : Frame := .f16 (BitVec.ofNat 16 (s.memRead s.nextAddr 2))

/-- The next element fetched. -/
def State.fetchedOne (s : State) : State :=
  { s with dma := { s.dma with fifo := [BitVec.ofNat 32 (s.memRead s.nextAddr 2)], fetched := s.dma.fetched + 1 } }

/-- The stream after the next element's handoff, before the completion test (R130, R132). -/
def State.handedDma (s : State) : Dma :=
  { s.dma with
    fetched := s.dma.fetched + 1
    handed := s.dma.handed + 1
    ndt := s.dma.ndt - 1
    sr := s.dma.sr ||| halfFlag (s.dma.ndt - 1) s.dma.ndtCfg
    req := false }

/-- The same when it was the last element (R131). -/
def State.completedDma (s : State) : Dma :=
  { s.handedDma with sr := s.handedDma.sr ||| 0b00001, en := false, state := .complete }

/-- The state with the next element's frame in the transmit buffer. -/
def State.handedOver (s : State) (d : Dma) : State :=
  { s with spi := { s.spi with txBuf := some s.nextFrame }, dma := d }

variable {s : State}

theorem State.Streams.fetches (h : s.Streams) (behind : s.dma.handed = s.dma.fetched)
    (more : s.dma.fetched.toNat < s.dma.ndtCfg.toNat) (admitted : s.par.admits s.nextAddr 2 = true) :
    fetchStep s = s.fetchedOne := by
  have window : s.dma.fetched.toNat - s.dma.handed.toNat < (if s.dma.fen then s.par.fifoDepth else 1) := by
    have depth := h.depth
    rw [behind, Nat.sub_self]
    split <;> omega
  have addr : elementAddr s.dma s.dma.fetched.toNat = s.nextAddr := by
    rw [elementAddr, h.half]
    rfl
  rw [fetchStep_of_enabled (s.fetchEnabled_iff.2 ⟨h.running, more, window⟩),
    State.fetchElement_of_admitted (by rw [addr, h.half]; exact admitted), addr, h.half, h.fifo]
  rfl

/-- The handoff's write, before the completion test. -/
theorem State.Streams.handElement (h : s.Streams) :
    handoffStep s.fetchedOne = .next (s.handedOver s.handedDma).complete := by
  have enabled : s.fetchedOne.handoffEnabled = true :=
    s.fetchedOne.handoffEnabled_iff.2 ⟨h.running, h.requested, List.cons_ne_nil _ _, h.txEmpty⟩
  have frame : (BitVec.ofNat 32 (s.memRead s.nextAddr 2)).setWidth 16 = BitVec.ofNat 16 (s.memRead s.nextAddr 2) :=
    BitVec.setWidth_ofNat_of_le (by decide) _
  have written : s.fetchedOne.handElement.halfTransfer = s.handedOver s.handedDma := by
    rw [State.handElement_of_fifo (s := s.fetchedOne) rfl, State.halfTransfer_eq, frame]
    simp only [State.handedOver, State.handedDma, State.fetchedOne, State.nextFrame, h.fifo]
  rw [handoffStep_hands enabled h.streaming h.half, written]

theorem State.Streams.hands (h : s.Streams) (more : s.dma.ndt - 1 ≠ 0) :
    handoffStep s.fetchedOne = .next (s.handedOver s.handedDma) := by
  rw [h.handElement, State.complete_of_ndt_ne_zero (by exact more)]

theorem State.Streams.completes (h : s.Streams) (last : s.dma.ndt - 1 = 0) :
    handoffStep s.fetchedOne = .next (s.handedOver s.completedDma) := by
  rw [h.handElement, State.complete_of_ndt_eq_zero (by exact last)]
  rfl

/-- The end of a step after which the gate is high: draws and the request latch, which a running stream has set (R135). -/
theorem State.endOfStep_high {s : State} (high : s.gate = true) (wasLow : s.spi.gPrev = false)
    (channel : s.dma.chsel = s.par.spiTxChannel) :
    ∃ inp req, s.endOfStep = { s with inp := inp, dma := { s.dma with req := req }, spi := { s.spi with gPrev := true } } ∧
      (s.dma.state = .running → inp = s.inp ∧ req = true) := by
  by_cases running : s.dma.state = .running
  · exact ⟨s.inp, true, State.endOfStep_rise high wasLow channel running, fun _ => ⟨rfl, rfl⟩⟩
  · obtain ⟨inp, req, ended⟩ := s.endOfStep_eq
    rw [high] at ended
    exact ⟨inp, req, ended, fun h => absurd h running⟩

/-- The next element being shifted, the gate high again. -/
def State.nextShifting (s : State) (d : Dma) (inp : Inputs) (req : Bool) : State :=
  { s with
    inp := inp
    dma := { d with req := req }
    spi := { s.spi with txBuf := none, shift := some ⟨s.nextFrame, s.line.cs, s.line.dc⟩, gPrev := true } }

/-- The state after a round that left the stream at `d`. -/
def State.round (s : State) (d : Dma) (inp : Inputs) (req : Bool) : State :=
  { s with
    inp := inp
    dma := { d with req := req }
    trace := s.trace ++ [.frame s.line.cs s.line.dc s.nextFrame true] }

/-- One round: the element is sent at once, and a stream that goes on has its next request latched (R134, R135). -/
theorem State.Streams.plays (h : s.Streams) (behind : s.dma.handed = s.dma.fetched)
    (more : s.dma.fetched.toNat < s.dma.ndtCfg.toNat) (admitted : s.par.admits s.nextAddr 2 = true) {d : Dma}
    (channel : d.chsel = s.par.spiTxChannel)
    (handed : ∀ ts, handoffStep (s.scheduled ts).fetchedOne = .next ((s.scheduled ts).handedOver d)) :
    ∃ inp req, Plays streamTurns s (s.round d inp req) ∧ (d.state = .running → inp = s.inp ∧ req = true) := by
  have fetch : Plays [.deFetch] s s.fetchedOne := by
    refine .turn_kept h.noFault h.noRefusal (fun ts => ?_)
      (h.gateHigh.trans (s.fetchedOne.gate_iff.2 ⟨h.enabled, h.request, h.txEmpty, h.streaming⟩).symm)
    exact congrArg Host.Outcome.next (State.Streams.fetches (s := s.scheduled ts) { h with } behind more admitted)
  have handoff : Plays [.deHandoff] s.fetchedOne (s.handedOver d).gateFell := by
    have low : (s.handedOver d).gate = false := by simp [State.gate, State.txe, State.handedOver]
    have played := Plays.turn (s := s.fetchedOne) (t := s.handedOver d) (τ := .deHandoff) h.noFault h.noRefusal handed
    rwa [State.endOfStep_low low] at played
  have asks {u : State} (link : u.spi = { s.spi with txBuf := none, shift := u.spi.shift, gPrev := u.spi.gPrev }) : u.gate = true :=
    u.gate_iff.2 (by rw [link]; exact ⟨h.enabled, h.request, rfl, h.streaming⟩)
  obtain ⟨inp, req, ended, latched⟩ := ((s.handedOver d).gateFell.loadShift s.nextFrame).endOfStep_high (asks rfl) rfl channel
  have load : Plays [.sh] (s.handedOver d).gateFell (s.nextShifting d inp req) := by
    have played := Plays.shifter (s := (s.handedOver d).gateFell) h.noFault h.noRefusal
    rwa [shifterStep_of_load (by exact h.enabled) (by exact h.notShifting) rfl, ended] at played
  have emit := Plays.sends_shifted (s := s.nextShifting d inp req) h.noFault h.noRefusal h.streaming h.enabled rfl (asks rfl).symm
  have link : { s.spi with txBuf := none, shift := none, gPrev := true } = s.spi := by
    rw [← h.txEmpty, ← h.notShifting, ← h.gateHigh]
  have frame : (s.nextShifting d inp req).shiftedFrame = [.frame s.line.cs s.line.dc s.nextFrame true] :=
    congrArg (fun stable => [Event.frame s.line.cs s.line.dc s.nextFrame stable]) (decide_eq_true ⟨rfl, rfl⟩)
  have sent : { s.nextShifting d inp req with
      spi := { (s.nextShifting d inp req).spi with shift := none }
      trace := s.trace ++ [.frame s.line.cs s.line.dc s.nextFrame true] } = s.round d inp req :=
    congrArg (fun link => { s.round d inp req with spi := link }) link
  rw [frame] at emit
  refine ⟨inp, req, fetch.append (handoff.append (load.append ?_)), latched⟩
  rw [← sent]
  exact emit

/-! ### The rounds of a stream -/

/-- The address of element `i` of a stream of half words (R126). -/
def State.halfAddr (s : State) (i : Nat) : Word := s.dma.src + BitVec.ofNat 32 (i * 2)

/-- The frame event of element `i`. -/
def State.elementFrame (s : State) (i : Nat) : Event :=
  .frame s.line.cs s.line.dc (.f16 (BitVec.ofNat 16 (s.memRead (s.halfAddr i) 2))) true

/-- The stream after `m` rounds, with no completion test: the counters, HT from half of the count on (R132), the frames. -/
def State.streamed (s : State) (m : Nat) : State :=
  { s with
    dma :=
      { s.dma with
        ndt := BitVec.ofNat 16 (s.dma.ndtCfg.toNat - m)
        sr := if s.dma.ndtCfg.toNat - m ≤ s.dma.ndtCfg.toNat / 2 then s.dma.sr ||| 0b00010 else s.dma.sr
        fetched := BitVec.ofNat 17 m
        handed := BitVec.ofNat 17 m }
    trace := s.trace ++ (List.range m).map s.elementFrame }

theorem State.streamed_zero (full : s.dma.ndt = s.dma.ndtCfg) (some : s.dma.ndtCfg.toNat ≠ 0) (unfetched : s.dma.fetched = 0)
    (unhanded : s.dma.handed = 0) : s.streamed 0 = s := by
  have early : ¬ s.dma.ndtCfg.toNat - 0 ≤ s.dma.ndtCfg.toNat / 2 := by omega
  have counter : BitVec.ofNat 16 (s.dma.ndtCfg.toNat - 0) = s.dma.ndt := by
    rw [full, Nat.sub_zero, BitVec.ofNat_toNat, BitVec.setWidth_eq]
  rw [streamed, if_neg early, counter, List.range_zero, List.map_nil, List.append_nil]
  exact (congrArg₂ (fun fetched handed => { s with dma := { s.dma with fetched := fetched, handed := handed } }) unfetched
    unhanded).symm

/-- The flags after one more round (R132). -/
theorem halfFlag_streamed {m : Nat} (v : BitVec 5) (ndtCfg : Half) (more : m < ndtCfg.toNat) :
    (if ndtCfg.toNat - m ≤ ndtCfg.toNat / 2 then v ||| 0b00010 else v) |||
        halfFlag (BitVec.ofNat 16 (ndtCfg.toNat - (m + 1))) ndtCfg =
      if ndtCfg.toNat - (m + 1) ≤ ndtCfg.toNat / 2 then v ||| 0b00010 else v := by
  have counter : (BitVec.ofNat 16 (ndtCfg.toNat - (m + 1))).toNat = ndtCfg.toNat - (m + 1) :=
    BitVec.toNat_ofNat _ _ |>.trans (Nat.mod_eq_of_lt (by omega))
  rw [halfFlag, counter]
  rcases Nat.lt_trichotomy (ndtCfg.toNat - (m + 1)) (ndtCfg.toNat / 2) with below | at_ | above
  · rw [if_pos (by omega), if_neg (by omega), if_pos (by omega)]
    exact BitVec.or_zero
  · rw [if_neg (by omega), if_pos at_, if_pos (by omega)]
  · rw [if_neg (by omega), if_neg (by omega), if_neg (by omega)]
    exact BitVec.or_zero

theorem State.handedDma_streamed {m : Nat} (more : m < s.dma.ndtCfg.toNat) :
    (s.streamed m).handedDma = { (s.streamed (m + 1)).dma with req := false } := by
  have counter : BitVec.ofNat 16 (s.dma.ndtCfg.toNat - m) - 1 = BitVec.ofNat 16 (s.dma.ndtCfg.toNat - (m + 1)) := by
    bv_omega
  have index : BitVec.ofNat 17 m + 1 = BitVec.ofNat 17 (m + 1) := by
    bv_omega
  simp only [handedDma, streamed, counter, index, halfFlag_streamed s.dma.sr s.dma.ndtCfg more]

theorem State.nextAddr_streamed {m : Nat} (more : m < s.dma.ndtCfg.toNat) :
    (s.streamed m).nextAddr = s.halfAddr m := by
  have index : (BitVec.ofNat 17 m).toNat = m := BitVec.toNat_ofNat _ _ |>.trans (Nat.mod_eq_of_lt (by omega))
  simp only [nextAddr, streamed, index, halfAddr]

theorem State.round_streamed {m : Nat} (more : m < s.dma.ndtCfg.toNat) (d : Dma) (inp : Inputs) (req : Bool) :
    (s.streamed m).round d inp req =
      { s with inp := inp, dma := { d with req := req }, trace := s.trace ++ (List.range (m + 1)).map s.elementFrame } := by
  have frame : (s.streamed m).nextFrame = .f16 (BitVec.ofNat 16 (s.memRead (s.halfAddr m) 2)) := by
    rw [nextFrame, State.nextAddr_streamed more]
    rfl
  rw [round, frame, List.range_succ, List.map_append, ← List.append_assoc]
  rfl

/-- The round of element `m`, whatever its handoff makes of the stream. -/
theorem State.Streams.plays_round (h : s.Streams) {m : Nat} (more : m < s.dma.ndtCfg.toNat)
    (admitted : s.par.admits (s.halfAddr m) 2 = true) {d : Dma} (channel : d.chsel = s.par.spiTxChannel)
    (handed : ∀ ts, handoffStep ((s.streamed m).scheduled ts).fetchedOne = .next (((s.streamed m).scheduled ts).handedOver d)) :
    ∃ inp req, (d.state = .running → inp = s.inp ∧ req = true) ∧ Plays streamTurns (s.streamed m)
      { s with inp := inp, dma := { d with req := req }, trace := s.trace ++ (List.range (m + 1)).map s.elementFrame } := by
  have index : (s.streamed m).dma.fetched.toNat = m := BitVec.toNat_ofNat _ _ |>.trans (Nat.mod_eq_of_lt (by omega))
  have streams : (s.streamed m).Streams := { h with }
  obtain ⟨inp, req, played, latched⟩ := streams.plays rfl (by rw [index]; exact more)
    (by rw [State.nextAddr_streamed more]; exact admitted) channel handed
  rw [State.round_streamed more] at played
  exact ⟨inp, req, latched, played⟩

/-- A round of a stream that goes on. -/
theorem State.Streams.plays_on (h : s.Streams) {m : Nat} (more : m + 1 < s.dma.ndtCfg.toNat)
    (admitted : s.par.admits (s.halfAddr m) 2 = true) : Plays streamTurns (s.streamed m) (s.streamed (m + 1)) := by
  have left : BitVec.ofNat 16 (s.dma.ndtCfg.toNat - m) - 1 ≠ 0 := by bv_omega
  obtain ⟨inp, req, latched, played⟩ := h.plays_round (by omega) admitted (d := (s.streamed m).handedDma) h.channel
    fun ts => State.Streams.hands (s := (s.streamed m).scheduled ts) { h with } left
  obtain ⟨rfl, rfl⟩ := latched h.running
  rw [State.handedDma_streamed (by omega), ← h.requested] at played
  exact played

/-- The round of the last element. -/
theorem State.Streams.plays_last (h : s.Streams) {m : Nat} (last : m + 1 = s.dma.ndtCfg.toNat)
    (admitted : s.par.admits (s.halfAddr m) 2 = true) :
    ∃ inp req, Plays streamTurns (s.streamed m)
      { s with
        inp := inp
        dma :=
          { s.dma with
            en := false, state := .complete, ndt := 0, sr := s.dma.sr ||| 0b00011, fetched := BitVec.ofNat 17 (m + 1)
            handed := BitVec.ofNat 17 (m + 1), req := req }
        trace := s.trace ++ (List.range (m + 1)).map s.elementFrame } := by
  have left : BitVec.ofNat 16 (s.dma.ndtCfg.toNat - m) - 1 = 0 := by bv_omega
  obtain ⟨inp, req, -, played⟩ := h.plays_round (by omega) admitted (d := (s.streamed m).completedDma) h.channel
    fun ts => State.Streams.completes (s := (s.streamed m).scheduled ts) { h with } left
  have counter : BitVec.ofNat 16 (s.dma.ndtCfg.toNat - (m + 1)) = 0 := by
    rw [last, Nat.sub_self]
    rfl
  have flags : (if s.dma.ndtCfg.toNat - (m + 1) ≤ s.dma.ndtCfg.toNat / 2 then s.dma.sr ||| 0b00010 else s.dma.sr) ||| 0b00001 =
      s.dma.sr ||| 0b00011 := by
    rw [if_pos (by omega), BitVec.or_assoc]
    rfl
  rw [completedDma, State.handedDma_streamed (by omega)] at played
  simp only [streamed, counter, flags] at played
  exact ⟨inp, req, played⟩

theorem State.Streams.plays_rounds (h : s.Streams) {m : Nat} (some : m < s.dma.ndtCfg.toNat)
    (admitted : ∀ i < m, s.par.admits (s.halfAddr i) 2 = true) :
    Plays (List.replicate m streamTurns).flatten (s.streamed 0) (s.streamed m) := by
  induction m with
  | zero => exact .nil _
  | succ m ih =>
    have earlier := ih (by omega) fun i hi => admitted i (by omega)
    rw [List.replicate_succ', List.flatten_append, List.flatten_singleton]
    exact earlier.append (h.plays_on some (admitted m (by omega)))

end Sys2Proof.Machine

namespace Sys2Proof.Proofs

open Sys2Proof.Machine

/-- Settles O34: the rounds that go on by induction over their number, then the last one. -/
theorem streamCompletes : Obligations.StreamCompletes := by
  unfold Obligations.StreamCompletes
  intro s n hf hr running count some full unfetched unhanded fifo requested half channel depth streaming enabled request
    txEmpty notShifting gateHigh admitted
  subst count
  have streams : s.Streams := by constructor <;> assumption
  obtain ⟨m, last⟩ : ∃ m, s.dma.ndtCfg.toNat = m + 1 := Nat.exists_eq_succ_of_ne_zero some
  have rounds := streams.plays_rounds (m := m) (by omega) fun i hi => admitted i (by omega)
  obtain ⟨inp, req, ended⟩ := streams.plays_last last.symm (admitted m (by omega))
  rw [State.streamed_zero full some unfetched unhanded] at rounds
  have turns : (List.replicate s.dma.ndtCfg.toNat streamTurns).flatten =
      (List.replicate m streamTurns).flatten ++ streamTurns := by
    rw [last, List.replicate_succ', List.flatten_append, List.flatten_singleton]
  have run := (rounds.append ended).runSteps
  have length : ((List.replicate m streamTurns).flatten ++ streamTurns).length = 4 * s.dma.ndtCfg.toNat := by
    simp only [last, streamTurns, List.length_append, List.length_flatten, List.map_replicate, List.sum_replicate,
      List.length_cons, List.length_nil, smul_eq_mul]
    omega
  rw [length, ← turns, ← last] at run
  exact ⟨inp, req, run⟩

end Sys2Proof.Proofs
end
